-- ==== Sys2Proof/Word.lean ====
section
/-! DEFINITION. The widths the spec treats as bits: bytes of the wire and of the payload buffer, 32-bit command
words (00_scope.md R7, CMD_W), 64-bit data (DATA_W). -/

namespace Sys2Proof

/-- One byte of the wire or of the payload buffer (20_memory.md R60). -/
abbrev Byte := BitVec 8

/-- One command word, CMD_W = 32 (30_encoding.md R85). -/
abbrev Word := BitVec 32

/-- One data word of the register space and of a response, DATA_W = 64 (30_encoding.md R90). -/
abbrev Data := BitVec 64

end Sys2Proof
end

