-- ==== Sys2Proof/Config.lean ====
section
/-! DEFINITION. What the implementation fixes (00_scope.md R7, 10_state.md R37): the constants of the block. GAP_US is a
parameter: every state carries its value (`State.gapUs`), and only its default stands here. The spec leaves no result
open, so there is no free value. -/

namespace Sys2Proof.Config

/-- SENTINEL, the start-of-frame byte (00_scope.md R7, fixed). -/
def sentinel : Byte := 0xFE#8

/-- TARGET_ID, the message identifier of an accepted frame (00_scope.md R7, fixed). -/
def targetId : Byte := 100#8

/-- The default of the parameter GAP_US, in microseconds (00_scope.md R7). -/
def gapUsDefault : BitVec 32 := 100000#32

/-- PAYLOAD_CAP: the payload space has the byte addresses 0 to 254 (00_scope.md R7, 20_memory.md R60). -/
def payloadCap : Nat := 255

end Sys2Proof.Config
end

