-- ==== Sys2Proof/Syntax.lean ====
section
/-! DEFINITION. The operations of the block, one constructor per row of spec/opcode_table.json; the type tags of the
field decoder; the names of the host-visible registers; the reasons a command word is ILLEGAL; and the assembler's
pseudo-instructions. -/

namespace Sys2Proof

/-- The type tags of the field decoder (41_field_decoder.md R140). -/
inductive TypeTag where
  | i16x2 | f32x2 | f32x1 | u8x1 | u64x1
  deriving DecidableEq, Repr

/-- The mapped registers of the register space (10_state.md R39). -/
inductive Reg where
  | status | declLen | msgId | payloadCount | sampleCount | prevTimeUs | accX | accY | config
  | timeUs | flowComp | groundDistance | rawFlow | quality
  deriving DecidableEq, Repr

/-- The operations, one per row of the opcode table. A DECODE takes its offsets in the order of the decoder's contract,
low then high (30_encoding.md R87). -/
inductive Instr where
  /-- BYTE: push one received byte into the parser (R110). -/
  | byte (b : Byte)
  /-- RXERR: the transport reports a failure (R210). -/
  | rxerr
  /-- READ: return one register (R181). -/
  | read (addr : Byte)
  /-- DECODE.I16X2 (R146). -/
  | decodeI16x2 (lo hi : Byte)
  /-- DECODE.F32X2 (R146). -/
  | decodeF32x2 (lo hi : Byte)
  /-- DECODE.F32X1 (R146). -/
  | decodeF32x1 (lo hi : Byte)
  /-- DECODE.U8X1 (R146). -/
  | decodeU8x1 (lo hi : Byte)
  /-- DECODE.U64X1 (R146). -/
  | decodeU64x1 (lo hi : Byte)
  /-- RESET: every state element to its reset value (R211). -/
  | reset
  deriving DecidableEq, Repr

/-- Why a command word is ILLEGAL, the cases (a), (b), (c) of 30_encoding.md R88. All three answer CMD_ERR. -/
inductive Illegal where
  /-- (a) OP is 0x0 or 0x5 to 0xE. -/
  | reservedOp
  /-- (b) a field that must be 0 for this OP is not. -/
  | reservedBits
  /-- (c) DECODE with TAG 5, 6 or 7. -/
  | reservedTag
  deriving DecidableEq, Repr

/-- The assembler's pseudo-instructions (30_encoding.md R93). -/
inductive Pseudo where
  /-- `BYTES b0, …, bk`. -/
  | bytes (bs : List Byte)
  /-- `FRAME seq, sys, comp, msgid, [p0, …, pL-1], cka, ckb`. -/
  | frame (seq sys comp msgid : Byte) (payload : List Byte) (cka ckb : Byte)
  /-- `NOP`. -/
  | nop
  /-- `SNAPSHOT`, the consistent read of 70_reset_and_hazards.md R265. -/
  | snapshot
  deriving DecidableEq, Repr

end Sys2Proof
end

