-- ==== Sys2Proof/WellFormed.lean ====
section
/-! DEFINITION. Which terms are well formed. An operation's operands are whole bytes, so every term of `Instr` is one
the encoding admits; a command WORD is well formed when none of the three checks of 30_encoding.md R88 rejects it; a
pseudo-instruction when it expands (R93). -/

namespace Sys2Proof

/-- Every operand of an operation is an 8-bit field whose every value the encoding admits (30_encoding.md R87; an
unmapped READ address and a failing pair of offsets are errors at run time, not ill-formed operations, R88). -/
def Instr.wf : Instr → Bool
  | .byte _ => true
  | .rxerr => true
  | .read _ => true
  | .decodeI16x2 _ _ => true
  | .decodeF32x2 _ _ => true
  | .decodeF32x1 _ _ => true
  | .decodeU8x1 _ _ => true
  | .decodeU64x1 _ _ => true
  | .reset => true

/-- Check (a) of R88: OP = w[31:28] is one of 0x1, 0x2, 0x3, 0x4, 0xF. -/
def opAssigned (w : Word) : Bool :=
  let op := (w >>> 28).toNat
  op == 1 || op == 2 || op == 3 || op == 4 || op == 15

/-- Check (b) of R88: the fields that R85 marks "must be 0" for this OP are 0. -/
def reservedBitsClear (w : Word) : Bool :=
  match (w >>> 28).toNat with
  | 1 => w &&& 0x0FFFFF00#32 == 0#32
  | 2 => w &&& 0x0FFFFFFF#32 == 0#32
  | 3 => w &&& 0x0FFFFF00#32 == 0#32
  | 4 => w &&& 0x0FF80000#32 == 0#32
  | 15 => w &&& 0x0FFFFFFF#32 == 0#32
  | _ => true

/-- Check (c) of R88: a DECODE's TAG = w[18:16] is at most 4. -/
def tagAssigned (w : Word) : Bool :=
  !((w >>> 28).toNat == 4) || decide ((w >>> 16).toNat % 8 ≤ 4)

/-- A word that R88 does not reject. -/
def legalWord (w : Word) : Bool :=
  opAssigned w && reservedBitsClear w && tagAssigned w

/-- `BYTES` lists at least one byte; `FRAME` lists at most 255 payload bytes, since LEN is one byte (R93). -/
def Pseudo.wf : Pseudo → Bool
  | .bytes bs => !bs.isEmpty
  | .frame _ _ _ _ payload _ _ => decide (payload.length ≤ 255)
  | .nop => true
  | .snapshot => true

end Sys2Proof
end

