-- ==== Sys2Proof/Decode.lean ====
section
/-! DEFINITION. The command-word decoder, total on every 32-bit word (30_encoding.md R85-R91), the encoder written from
the same tables, the opcode table as rows of match and mask, and the expansion of the pseudo-instructions (R93). -/

namespace Sys2Proof

/-! ### The fields of a command word (R85) -/

/-- OP = cmd[31:28]. -/
def opField (w : Word) : BitVec 4 := w.extractLsb' 28 4
/-- RSV_HI = cmd[27:19]. -/
def rsvField (w : Word) : BitVec 9 := w.extractLsb' 19 9
/-- TAG = cmd[18:16]. -/
def tagField (w : Word) : BitVec 3 := w.extractLsb' 16 3
/-- HI = cmd[15:8]. -/
def hiField (w : Word) : Byte := w.extractLsb' 8 8
/-- LO / DATA / ADDR = cmd[7:0]. -/
def loField (w : Word) : Byte := w.extractLsb' 0 8

/-- The 3-bit codes of the type tags (41_field_decoder.md R140). -/
def TypeTag.code : TypeTag → BitVec 3
  | .i16x2 => 0
  | .f32x2 => 1
  | .f32x1 => 2
  | .u8x1 => 3
  | .u64x1 => 4

/-- The tag a code names; codes 5 to 7 are reserved (R140). -/
def TypeTag.ofCode (c : BitVec 3) : Option TypeTag :=
  if c = 0 then some .i16x2
  else if c = 1 then some .f32x2
  else if c = 2 then some .f32x1
  else if c = 3 then some .u8x1
  else if c = 4 then some .u64x1
  else none

/-- The DECODE operation of a tag. -/
def Instr.decodeWith (t : TypeTag) (lo hi : Byte) : Instr :=
  match t with
  | .i16x2 => .decodeI16x2 lo hi
  | .f32x2 => .decodeF32x2 lo hi
  | .f32x1 => .decodeF32x1 lo hi
  | .u8x1 => .decodeU8x1 lo hi
  | .u64x1 => .decodeU64x1 lo hi

/-! ### Decoding -/

/-- The DECODE row of the decoder: the tag check (c) comes after the must-be-zero check (b) (R89). -/
def decodeDecode (w : Word) : Except Illegal Instr :=
  if rsvField w ≠ 0 then .error .reservedBits
  else match TypeTag.ofCode (tagField w) with
    | some t => .ok (.decodeWith t (loField w) (hiField w))
    | none => .error .reservedTag

/-- The command decoder (R85-R91). Total; a word that R88 rejects is rejected by the name of the check. -/
def decode (w : Word) : Except Illegal Instr :=
  if opField w = 0x1 then
    if rsvField w = 0 ∧ tagField w = 0 ∧ hiField w = 0 then .ok (.byte (loField w)) else .error .reservedBits
  else if opField w = 0x2 then
    if rsvField w = 0 ∧ tagField w = 0 ∧ hiField w = 0 ∧ loField w = 0 then .ok .rxerr else .error .reservedBits
  else if opField w = 0x3 then
    if rsvField w = 0 ∧ tagField w = 0 ∧ hiField w = 0 then .ok (.read (loField w)) else .error .reservedBits
  else if opField w = 0x4 then decodeDecode w
  else if opField w = 0xF then
    if rsvField w = 0 ∧ tagField w = 0 ∧ hiField w = 0 ∧ loField w = 0 then .ok .reset else .error .reservedBits
  else .error .reservedOp

/-- The instruction the decoder reads from the `nbits` low bits of `w`, the bits above them being 0. Every command word
has 32 bits, and its fields are numbered in the word (30_encoding.md R84, R85), so the table's numbering is the word's
(DEDUCED, log entry 11). -/
def decodeTableWord (nbits w : Nat) : Option Instr :=
  if w % 2 ^ nbits < 2 ^ 32 then (decode (BitVec.ofNat 32 (w % 2 ^ nbits))).toOption else none

/-! ### Encoding -/

/-- A command word from its fields, RSV_HI being 0 (R85). -/
def assemble (op : BitVec 4) (tag : BitVec 3) (hi lo : Byte) : Word :=
  op ++ (0 : BitVec 9) ++ tag ++ hi ++ lo

/-- The word of an operation (R85-R87). -/
def encode : Instr → Word
  | .byte b => assemble 0x1 0 0 b
  | .rxerr => assemble 0x2 0 0 0
  | .read a => assemble 0x3 0 0 a
  | .decodeI16x2 lo hi => assemble 0x4 (TypeTag.code .i16x2) hi lo
  | .decodeF32x2 lo hi => assemble 0x4 (TypeTag.code .f32x2) hi lo
  | .decodeF32x1 lo hi => assemble 0x4 (TypeTag.code .f32x1) hi lo
  | .decodeU8x1 lo hi => assemble 0x4 (TypeTag.code .u8x1) hi lo
  | .decodeU64x1 lo hi => assemble 0x4 (TypeTag.code .u64x1) hi lo
  | .reset => assemble 0xF 0 0 0

/-! ### The opcode table (R86, spec/opcode_table.json) -/

/-- The match and mask of an operation's row: a word is of that row when `w &&& mask = match`. -/
def Instr.row : Instr → Word × Word
  | .byte _ => (0x10000000#32, 0xFFFFFF00#32)
  | .rxerr => (0x20000000#32, 0xFFFFFFFF#32)
  | .read _ => (0x30000000#32, 0xFFFFFF00#32)
  | .decodeI16x2 _ _ => (0x40000000#32, 0xFFFF0000#32)
  | .decodeF32x2 _ _ => (0x40010000#32, 0xFFFF0000#32)
  | .decodeF32x1 _ _ => (0x40020000#32, 0xFFFF0000#32)
  | .decodeU8x1 _ _ => (0x40030000#32, 0xFFFF0000#32)
  | .decodeU64x1 _ _ => (0x40040000#32, 0xFFFF0000#32)
  | .reset => (0xF0000000#32, 0xFFFFFFFF#32)

/-- A word lies in the row of `i`. -/
def Instr.rowMatches (i : Instr) (w : Word) : Bool := w &&& i.row.2 == i.row.1

/-! ### Pseudo-instructions (R93) -/

/-- The bytes of a frame in transmission order (30_encoding.md R81, R93): LEN is the number of payload bytes. -/
def frameBytes (seq sys comp msgid : Byte) (payload : List Byte) (cka ckb : Byte) : List Byte :=
  [Config.sentinel, BitVec.ofNat 8 payload.length, seq, sys, comp, msgid] ++ payload ++ [cka, ckb]

/-- The operations a pseudo-instruction expands to (R93). -/
def Pseudo.expand : Pseudo → List Instr
  | .bytes bs => bs.map .byte
  | .frame seq sys comp msgid payload cka ckb => (frameBytes seq sys comp msgid payload cka ckb).map .byte
  | .nop => [.read 0x00]
  | .snapshot => [.read 0x04, .read 0x10, .read 0x11, .read 0x12, .read 0x13, .read 0x14, .read 0x04]

end Sys2Proof
end

