-- ==== Sys2Proof/Machine/State.lean ====
section
/-! DEFINITION. The state of the block: every element of 10_state.md R20, and three fields of the model's own (the
parameter GAP_US, the inputs presented and not yet taken, the last response). Plain data. -/

namespace Sys2Proof.Machine

/-- PSTATE, the parser's state tag (10_state.md R21). The codes 9 to 15 are unrepresentable. -/
inductive PState where
  | idle | gotStx | gotLen | gotSeq | gotSys | gotComp | inPayload | gotCka | gotCkb
  deriving DecidableEq, Repr

/-- The response codes (60_exceptions.md R230). The codes 6 and 7 are never produced and are unrepresentable. -/
inductive RspCode where
  | ok | accessErr | decodeErr | addrErr | cmdErr | transportErr
  deriving DecidableEq, Repr

/-- The response `(code, data, ev)` of an operation (30_encoding.md R90). -/
structure Response where
  code : RspCode
  data : Data
  ev : Bool
  deriving DecidableEq, Repr

/-- One input the environment presents: a command word from the transport or the host (60_exceptions.md R242), or a
pulse of the reset pin (70_reset_and_hazards.md R260). -/
inductive Input where
  | command (w : Word)
  | resetPin
  deriving DecidableEq, Repr

/-- The payload space: the listed cells of PAYLOAD_BUF, addresses strictly rising, none equal to what an unlisted
address reads as (`Memory.wf`, Machine/Ops.lean). -/
abbrev Memory := List Host.Cell

/-- The block never faults in a reachable state (60_exceptions.md R242). -/
inductive Fault where
  /-- A payload write at an index outside 0 to 254. Raised only by BYTE's IN_PAYLOAD branch with PAYLOAD_COUNT = 255,
  which 10_state.md R52(b) rules out of every reachable state. Safe: the machine stops where the spec's payload space
  has no such address. -/
  | payloadAddress
  deriving DecidableEq, Repr

/-- No operation refuses. -/
inductive Refusal where
  /-- An operation whose meaning is not written yet; raised by exec's arm only. No arm raises it. Safe. -/
  | notModelled (mnemonic : String)
  deriving DecidableEq, Repr

/-- The state of the block. -/
structure State where
  /-- PSTATE (R21). -/
  pstate : PState
  /-- DECL_LEN (R22). -/
  declLen : Byte
  /-- MSG_ID (R23). -/
  msgId : Byte
  /-- PAYLOAD_COUNT (R24). -/
  payloadCount : Byte
  /-- PAYLOAD_BUF (R25). -/
  payload : Memory
  /-- VALID (R26). -/
  valid : Bool
  /-- TIME_US (R27). -/
  timeUs : BitVec 64
  /-- FLOW_COMP_X (R28). -/
  flowCompX : BitVec 32
  /-- FLOW_COMP_Y (R28). -/
  flowCompY : BitVec 32
  /-- GROUND_DISTANCE (R29). -/
  groundDistance : BitVec 32
  /-- RAW_FLOW_X (R30). -/
  rawFlowX : BitVec 16
  /-- RAW_FLOW_Y (R30). -/
  rawFlowY : BitVec 16
  /-- QUALITY (R31). -/
  quality : Byte
  /-- PREV_VALID (R32). -/
  prevValid : Bool
  /-- PREV_TIME_US (R32). -/
  prevTimeUs : BitVec 64
  /-- ACC_X (R33). -/
  accX : BitVec 64
  /-- ACC_Y (R33). -/
  accY : BitVec 64
  /-- SAMPLE_COUNT (R34). -/
  sampleCount : BitVec 64
  /-- DERR (R35). -/
  derr : Bool
  /-- TERR (R36). -/
  terr : Bool
  /-- The model's own: the build-time parameter GAP_US (00_scope.md R7); no operation writes it. -/
  gapUs : BitVec 32
  /-- The model's own: the inputs presented and not yet taken, oldest first. -/
  inputs : List Input
  /-- The model's own: the response of the last step; none where it ran no operation. -/
  rsp : Option Response
  deriving DecidableEq, Repr

/-- The machine right after reset (70_reset_and_hazards.md R261), GAP_US at its default, nothing presented. The payload
buffer's contents are the model's choice (DESIGN CHOICE, log entry 5). -/
def State.reset : State where
  pstate := .idle
  declLen := 0
  msgId := 0
  payloadCount := 0
  payload := []
  valid := false
  timeUs := 0
  flowCompX := 0
  flowCompY := 0
  groundDistance := 0
  rawFlowX := 0
  rawFlowY := 0
  quality := 0
  prevValid := false
  prevTimeUs := 0
  accX := 0
  accY := 0
  sampleCount := 0
  derr := false
  terr := false
  gapUs := Config.gapUsDefault
  inputs := []
  rsp := none

end Sys2Proof.Machine
end

