-- ==== Sys2Proof/Machine/Ops.lean ====
section
/-! DEFINITION. The named operations over the payload space and the registers: reading and writing one byte, the
little-endian read, one update per state element, ending an operation with a response or an error, taking the next
input, and the reset that both reset sources share. -/

namespace Sys2Proof.Machine

/-! ### The payload space (20_memory.md R60-R63) -/

/-- What a payload byte that nothing has written reads as. R25 leaves it unspecified and allows zero
(DESIGN CHOICE, log entry 5); by R62 no operation observes it. -/
def Memory.unwritten : Byte := 0

/-- The canonical form: addresses strictly rising and inside the payload space, no cell equal to an unlisted one. -/
abbrev Memory.wf (m : Memory) : Prop :=
  m.Pairwise (fun c d => c.1 < d.1) ∧ ∀ c ∈ m, c.1 < Config.payloadCap ∧ c.2 ≠ Memory.unwritten

/-- The byte at an address. -/
def Memory.read : Memory → Nat → Byte
  | [], _ => Memory.unwritten
  | (b, u) :: m, a => if a = b then u else Memory.read m a

/-- `MemWrite(a, 1, v)` on the cells (20_memory.md R61), in canonical form. -/
def Memory.write : Memory → Nat → Byte → Memory
  | [], a, v => if v = Memory.unwritten then [] else [(a, v)]
  | (b, u) :: m, a, v =>
    if a < b then
      if v = Memory.unwritten then (b, u) :: m else (a, v) :: (b, u) :: m
    else if a = b then
      if v = Memory.unwritten then m else (b, v) :: m
    else (b, u) :: Memory.write m a v

/-- `MemRead(a, n)`: n bytes from index a, the lowest index least significant (20_memory.md R63). -/
def Memory.readLE (m : Memory) : Nat → Nat → Nat
  | _, 0 => 0
  | a, n + 1 => (m.read a).toNat + 256 * Memory.readLE m (a + 1) n

/-! ### One update per state element -/

def State.setPstate (s : State) (p : PState) : State := { s with pstate := p }
def State.setDeclLen (s : State) (b : Byte) : State := { s with declLen := b }
def State.setMsgId (s : State) (b : Byte) : State := { s with msgId := b }
def State.setPayloadCount (s : State) (n : Byte) : State := { s with payloadCount := n }
def State.setPayload (s : State) (m : Memory) : State := { s with payload := m }
def State.setSampleCount (s : State) (n : BitVec 64) : State := { s with sampleCount := n }
def State.setDerr (s : State) (d : Bool) : State := { s with derr := d }
def State.setTerr (s : State) (t : Bool) : State := { s with terr := t }
def State.setAcc (s : State) (x y : BitVec 64) : State := { s with accX := x, accY := y }
def State.setRsp (s : State) (r : Option Response) : State := { s with rsp := r }
def State.setInputs (s : State) (is : List Input) : State := { s with inputs := is }

/-- The integrator records a timestamp: PREV_TIME_US and PREV_VALID (42_driver_integrator.md R174, R178). -/
def State.setPrev (s : State) (t : BitVec 64) : State := { s with prevValid := true, prevTimeUs := t }

/-- All seven reading registers and VALID, from the five decoded schema fields (41_field_decoder.md R147,
42_driver_integrator.md R173): time, the two flow lanes, distance, the two raw lanes, quality. -/
def State.setReading (s : State) (time flow dist raw qual : Data) : State :=
  { s with
    timeUs := time
    flowCompX := flow.extractLsb' 0 32
    flowCompY := flow.extractLsb' 32 32
    groundDistance := dist.extractLsb' 0 32
    rawFlowX := raw.extractLsb' 0 16
    rawFlowY := raw.extractLsb' 16 16
    quality := qual.extractLsb' 0 8
    valid := true }

/-! ### Ending an operation -/

/-- `rsp <- (code, data, ev)` (00_scope.md R9, 30_encoding.md R90). -/
def State.respond (s : State) (code : RspCode) (data : Data) (ev : Bool) : State :=
  s.setRsp (some { code := code, data := data, ev := ev })

/-- The response (OK, 0, 0). -/
def State.done (s : State) : State := s.respond .ok 0 false

/-- `raise <Error>`: the block has no trap; an error ends the operation with its code and data 0, transfers no control
and saves nothing (00_scope.md R9, 60_exceptions.md R230, R235). -/
def State.raise (s : State) (code : RspCode) : State := s.respond code 0 false

/-! ### Payload writes, the next input, reset -/

/-- `MemWrite(PAYLOAD_COUNT, 1, b); PAYLOAD_COUNT <- PAYLOAD_COUNT + 1` (40_frame_parser.md R116); none where the index
is outside the payload space. -/
def State.appendPayload (s : State) (b : Byte) : Option State :=
  if s.payloadCount.toNat < Config.payloadCap then
    some ((s.setPayload (s.payload.write s.payloadCount.toNat b)).setPayloadCount (s.payloadCount + 1))
  else none

/-- The next input presented, and the state without it. -/
def State.takeInput (s : State) : Option (Input × State) :=
  match s.inputs with
  | [] => none
  | i :: rest => some (i, s.setInputs rest)

/-- Every state element at its reset value (43_host_control.md R211, 70_reset_and_hazards.md R260, R261). PAYLOAD_BUF, left
unspecified, keeps its bytes: they are never cleared (10_state.md R25; DESIGN CHOICE, log entry 6). The constants of R37,
GAP_US among them, keep their values, and so do the inputs not yet taken; no response stands. -/
def State.toReset (s : State) : State :=
  { State.reset with payload := s.payload, gapUs := s.gapUs, inputs := s.inputs }

end Sys2Proof.Machine
end

