-- ==== Sys2Proof/Machine/Control.lean ====
section
/-! DEFINITION. The control operations of 43_host_control.md: RXERR, RESET, ILLEGAL, and beside them the reset pin and
the step that finds nothing presented. -/

namespace Sys2Proof.Machine

/-- RXERR: TERR is set, TRANSPORT_ERR answered (R210). -/
def execRxerr (s : State) : Host.Outcome State Fault Refusal :=
  .next ((s.setTerr true).raise .transportErr)

/-- RESET: every state element at its reset value, in every state (R211). -/
def execReset (s : State) : Host.Outcome State Fault Refusal :=
  .next s.toReset.done

/-- ILLEGAL: CMD_ERR, no state change, whatever TERR is (R212, 60_exceptions.md R236). -/
def execIllegal (s : State) : Host.Outcome State Fault Refusal :=
  .next (s.raise .cmdErr)

/-- The reset pin: the effect of RESET (70_reset_and_hazards.md R260). It is no operation, so no response stands after
it (DESIGN CHOICE, log entry 8). -/
def execResetPin (s : State) : Host.Outcome State Fault Refusal :=
  .next s.toReset

/-- Nothing presented: nothing changes, and no response stands (DEDUCED, log entry 2). -/
def execIdle (s : State) : Host.Outcome State Fault Refusal :=
  .next (s.setRsp none)

end Sys2Proof.Machine
end

