-- ==== Sys2Proof/Machine/Flags.lean ====
section
/-! DEFINITION. The codes and flag bits the host sees: PSTATE's code, the response codes' bits, the STATUS word, and the
saturating sample count. -/

namespace Sys2Proof.Machine

/-- The 4-bit code of a parser state (10_state.md R21). -/
def PState.code : PState → BitVec 4
  | .idle => 0
  | .gotStx => 1
  | .gotLen => 2
  | .gotSeq => 3
  | .gotSys => 4
  | .gotComp => 5
  | .inPayload => 6
  | .gotCka => 7
  | .gotCkb => 8

/-- The 3 bits of a response code (60_exceptions.md R230). -/
def RspCode.bits : RspCode → BitVec 3
  | .ok => 0
  | .accessErr => 1
  | .decodeErr => 2
  | .addrErr => 3
  | .cmdErr => 4
  | .transportErr => 5

/-- STATUS (10_state.md R40): [3:0] PSTATE, [4] VALID, [5] PREV_VALID, [6] DERR, [7] TERR, the rest 0. -/
def State.statusWord (s : State) : Data :=
  (0 : BitVec 56) ++ BitVec.ofBool s.terr ++ BitVec.ofBool s.derr ++ BitVec.ofBool s.prevValid
    ++ BitVec.ofBool s.valid ++ s.pstate.code

/-- `min(n + 1, 2^64 - 1)` (42_driver_integrator.md R171). -/
def saturatingSucc (n : BitVec 64) : BitVec 64 :=
  BitVec.ofNat 64 (min (n.toNat + 1) (2 ^ 64 - 1))

end Sys2Proof.Machine
end

