-- ==== Sys2Proof/Machine/Operands.lean ====
section
/-! DEFINITION. The operand forms: READ's register address (the register map of 10_state.md R39-R50) and DECODE's typed
range of payload bytes (the field decoder of 41_field_decoder.md R140-R145). -/

namespace Sys2Proof.Machine

/-! ### The register map -/

/-- The register at an address; 0x09-0x0F and 0x15-0xFF are unmapped (10_state.md R39). -/
def regAt (addr : Byte) : Option Reg :=
  match addr.toNat with
  | 0x00 => some .status
  | 0x01 => some .declLen
  | 0x02 => some .msgId
  | 0x03 => some .payloadCount
  | 0x04 => some .sampleCount
  | 0x05 => some .prevTimeUs
  | 0x06 => some .accX
  | 0x07 => some .accY
  | 0x08 => some .config
  | 0x10 => some .timeUs
  | 0x11 => some .flowComp
  | 0x12 => some .groundDistance
  | 0x13 => some .rawFlow
  | 0x14 => some .quality
  | _ => none

/-- The registers that READ gives only while VALID = 1 (10_state.md R39, 60_exceptions.md R233). -/
def regGated : Reg → Bool
  | .timeUs | .flowComp | .groundDistance | .rawFlow | .quality => true
  | .status | .declLen | .msgId | .payloadCount | .sampleCount | .prevTimeUs | .accX | .accY | .config => false

/-- CONFIG: SENTINEL, TARGET_ID, GAP_US (10_state.md R44). -/
def State.configWord (s : State) : Data :=
  (0 : BitVec 16) ++ s.gapUs ++ Config.targetId ++ Config.sentinel

/-- `RegValue`: the word a register reads as (10_state.md R40-R49). -/
def State.regValue (s : State) : Reg → Data
  | .status => s.statusWord
  | .declLen => s.declLen.setWidth 64
  | .msgId => s.msgId.setWidth 64
  | .payloadCount => s.payloadCount.setWidth 64
  | .sampleCount => s.sampleCount
  | .prevTimeUs => s.prevTimeUs
  | .accX => s.accX
  | .accY => s.accY
  | .config => s.configWord
  | .timeUs => s.timeUs
  | .flowComp => s.flowCompY ++ s.flowCompX
  | .groundDistance => s.groundDistance.setWidth 64
  | .rawFlow => (s.rawFlowY ++ s.rawFlowX).setWidth 64
  | .quality => s.quality.setWidth 64

/-! ### The field decoder -/

/-- The number of lanes of a tag (41_field_decoder.md R140). -/
def tagLanes : TypeTag → Nat
  | .i16x2 => 2
  | .f32x2 => 2
  | .f32x1 => 1
  | .u8x1 => 1
  | .u64x1 => 1

/-- The lane width of a tag, in bits (R140). -/
def tagLaneBits : TypeTag → Nat
  | .i16x2 => 16
  | .f32x2 => 32
  | .f32x1 => 32
  | .u8x1 => 8
  | .u64x1 => 64

/-- W, the byte width a tag implies: lanes × lane width / 8 (R140). -/
def tagWidth (t : TypeTag) : Nat := tagLanes t * tagLaneBits t / 8

/-- `FieldDecode(tag, lo, hi)` on the payload bytes below PAYLOAD_COUNT (R141); none is DecodeError. The width check is
in ℤ, so hi < lo fails it. It changes no state. -/
def State.fieldDecode (s : State) (t : TypeTag) (lo hi : Nat) : Option Data :=
  if (hi : Int) - (lo : Int) ≠ (tagWidth t : Int) then none
  else if s.payloadCount.toNat < hi then none
  else some (BitVec.ofNat 64 (s.payload.readLE lo (tagWidth t)))

end Sys2Proof.Machine
end

