-- ==== Sys2Proof/Machine/FieldDecoder.lean ====
section
/-! DEFINITION. DECODE, the host's use of the field decoder on the current payload (41_field_decoder.md R146), one
meaning per type tag. -/

namespace Sys2Proof.Machine

/-- `DECODE(tag, lo, hi)`: the decoded word, or DECODE_ERR; no state changes, whatever TERR and VALID are (R146). -/
def State.decodeField (s : State) (t : TypeTag) (lo hi : Byte) : State :=
  match s.fieldDecode t lo.toNat hi.toNat with
  | none => s.raise .decodeErr
  | some v => s.respond .ok v false

/-- DECODE.I16X2 (R146). -/
def execDecodeI16x2 (lo hi : Byte) (s : State) : Host.Outcome State Fault Refusal :=
  .next (s.decodeField .i16x2 lo hi)

/-- DECODE.F32X2 (R146). -/
def execDecodeF32x2 (lo hi : Byte) (s : State) : Host.Outcome State Fault Refusal :=
  .next (s.decodeField .f32x2 lo hi)

/-- DECODE.F32X1 (R146). -/
def execDecodeF32x1 (lo hi : Byte) (s : State) : Host.Outcome State Fault Refusal :=
  .next (s.decodeField .f32x1 lo hi)

/-- DECODE.U8X1 (R146). -/
def execDecodeU8x1 (lo hi : Byte) (s : State) : Host.Outcome State Fault Refusal :=
  .next (s.decodeField .u8x1 lo hi)

/-- DECODE.U64X1 (R146). -/
def execDecodeU64x1 (lo hi : Byte) (s : State) : Host.Outcome State Fault Refusal :=
  .next (s.decodeField .u64x1 lo hi)

end Sys2Proof.Machine
end

