-- ==== Sys2Proof/Machine/Float.lean ====
section
/-! DEFINITION. The floating-point primitives of 42_driver_integrator.md R179: IEEE 754 binary64 addition,
multiplication and division and the two conversions into binary64, each computed exactly over the integers and rounded
once, to nearest with ties to even; subnormals are kept, and every NaN result is the one canonical NaN. (The IEEE
definitions are general knowledge, as R179 says: PRESUMED, log entry 10.) -/

namespace Sys2Proof.Machine

/-- What a floating-point pattern stands for: NaN, an infinity, or the number (-1)^neg · m · 2^e. -/
inductive FloatVal where
  | nan
  | inf (neg : Bool)
  | fin (neg : Bool) (m : Nat) (e : Int)
  deriving DecidableEq, Repr

/-- The canonical quiet NaN (R179). -/
def canonicalNaN : BitVec 64 := 0x7FF8000000000000#64

/-- 1000000.0 in binary64 (R177). -/
def f64Million : BitVec 64 := 0x412E848000000000#64

/-- The value of a binary64 pattern: sign [63], biased exponent [62:52], fraction [51:0]. -/
def unpack64 (x : BitVec 64) : FloatVal :=
  let neg := x.getLsbD 63
  let ex := (x.extractLsb' 52 11).toNat
  let fr := (x.extractLsb' 0 52).toNat
  if ex = 2047 then (if fr = 0 then .inf neg else .nan)
  else if ex = 0 then .fin neg fr (-1074)
  else .fin neg (2 ^ 52 + fr) ((ex : Int) - 1075)

/-- The value of a binary32 pattern: sign [31], biased exponent [30:23], fraction [22:0]. -/
def unpack32 (x : BitVec 32) : FloatVal :=
  let neg := x.getLsbD 31
  let ex := (x.extractLsb' 23 8).toNat
  let fr := (x.extractLsb' 0 23).toNat
  if ex = 255 then (if fr = 0 then .inf neg else .nan)
  else if ex = 0 then .fin neg fr (-149)
  else .fin neg (2 ^ 23 + fr) ((ex : Int) - 150)

/-- A pattern from its sign and its 63 lower bits. -/
def signed64 (neg : Bool) (mag : Nat) : BitVec 64 := BitVec.ofBool neg ++ BitVec.ofNat 63 mag

/-- The magnitude bits of infinity. -/
def infBits : Nat := 2047 * 2 ^ 52

/-- An infinity. -/
def inf64 (neg : Bool) : BitVec 64 := signed64 neg infBits

/-- A zero. -/
def zero64 (neg : Bool) : BitVec 64 := signed64 neg 0

/-- The exponent of the greatest power of two not above n / d, for n and d positive. -/
def ratLog2 (n d : Nat) : Int :=
  let k : Int := (n.log2 : Int) - (d.log2 : Int)
  if d * 2 ^ k.toNat ≤ n * 2 ^ (-k).toNat then k else k - 1

/-- The exponent of the unit in the last place of the binary64 result nearest n / d · 2^e: 52 below the leading bit,
and never below the subnormals' -1074. -/
def quantum (n d : Nat) (e : Int) : Int := max (ratLog2 n d + e - 52) (-1074)

/-- n / d rounded to the nearest natural number, ties to the even one. -/
def divNearestEven (n d : Nat) : Nat :=
  if 2 * (n % d) > d ∨ (2 * (n % d) = d ∧ n / d % 2 = 1) then n / d + 1 else n / d

/-- The magnitude bits of the binary64 number nearest n / d · 2^e, ties to even; beyond the largest finite number,
infinity's. A significand that rounds up to 2^53 carries into the exponent by itself. -/
def roundMag (n d : Nat) (e : Int) : Nat :=
  if n = 0 then 0
  else
    let q := quantum n d e
    min ((q + 1074).toNat * 2 ^ 52 + divNearestEven (n * 2 ^ (e - q).toNat) (d * 2 ^ (q - e).toNat)) infBits

/-- The binary64 pattern nearest (-1)^neg · n / d · 2^e, roundTiesToEven (R179). -/
def round64 (neg : Bool) (n d : Nat) (e : Int) : BitVec 64 := signed64 neg (roundMag n d e)

/-- `f32_to_f64(x)`: exact for every non-NaN pattern; NaN gives the canonical NaN (R179). -/
def f32ToF64 (x : BitVec 32) : BitVec 64 :=
  match unpack32 x with
  | .nan => canonicalNaN
  | .inf neg => inf64 neg
  | .fin neg m e => round64 neg m 1 e

/-- `i_to_f64(n)` (R179). -/
def intToF64 (n : Int) : BitVec 64 := round64 (decide (n < 0)) n.natAbs 1 0

/-- `f64_mul(a, b)` (R179). -/
def f64Mul (a b : BitVec 64) : BitVec 64 :=
  match unpack64 a, unpack64 b with
  | .nan, _ => canonicalNaN
  | _, .nan => canonicalNaN
  | .inf s, .inf t => inf64 (s != t)
  | .inf s, .fin t m _ => if m = 0 then canonicalNaN else inf64 (s != t)
  | .fin s m _, .inf t => if m = 0 then canonicalNaN else inf64 (s != t)
  | .fin s m e, .fin t n f => round64 (s != t) (m * n) 1 (e + f)

/-- `f64_div(a, b)` (R179). -/
def f64Div (a b : BitVec 64) : BitVec 64 :=
  match unpack64 a, unpack64 b with
  | .nan, _ => canonicalNaN
  | _, .nan => canonicalNaN
  | .inf _, .inf _ => canonicalNaN
  | .inf s, .fin t _ _ => inf64 (s != t)
  | .fin s _ _, .inf t => zero64 (s != t)
  | .fin s m e, .fin t n f =>
    if n = 0 then (if m = 0 then canonicalNaN else inf64 (s != t)) else round64 (s != t) m n (e - f)

/-- A signed significand aligned to a common exponent. -/
def alignedSig (neg : Bool) (m : Nat) (shift : Nat) : Int :=
  if neg then -((m * 2 ^ shift : Nat) : Int) else ((m * 2 ^ shift : Nat) : Int)

/-- The exact sum of two finite numbers, rounded once. A sum of exactly zero is +0 unless both operands are negative. -/
def addFinite (s : Bool) (m : Nat) (e : Int) (t : Bool) (n : Nat) (f : Int) : BitVec 64 :=
  let g := min e f
  let sum := alignedSig s m (e - g).toNat + alignedSig t n (f - g).toNat
  if sum = 0 then zero64 (s && t) else round64 (decide (sum < 0)) sum.natAbs 1 g

/-- `f64_add(a, b)` (R179). -/
def f64Add (a b : BitVec 64) : BitVec 64 :=
  match unpack64 a, unpack64 b with
  | .nan, _ => canonicalNaN
  | _, .nan => canonicalNaN
  | .inf s, .inf t => if s = t then inf64 s else canonicalNaN
  | .inf s, .fin _ _ _ => inf64 s
  | .fin _ _ _, .inf t => inf64 t
  | .fin s m e, .fin t n f => addFinite s m e t n f

end Sys2Proof.Machine
end

