-- ==== Sys2Proof/Machine/Driver.lean ====
section
/-! DEFINITION. The driver and integrator: Accept (42_driver_integrator.md R170-R173), Integrate (R174-R178), and the
host's accessor READ (R181). -/

namespace Sys2Proof.Machine

/-! ### Integrate -/

/-- `dt_us`, exact in ℤ, no wrap (R175). -/
def intervalUs (t prev : BitVec 64) : Int := (t.toNat : Int) - (prev.toNat : Int)

/-- `dt`, the interval in seconds (R177). -/
def intervalSec (dtUs : Int) : BitVec 64 := f64Div (intToF64 dtUs) f64Million

/-- One accumulator after one sample (R177). -/
def accumulated (acc : BitVec 64) (flow : BitVec 32) (dtUs : Int) : BitVec 64 :=
  f64Add acc (f64Mul (f32ToF64 flow) (intervalSec dtUs))

/-- Accumulate both axes with the flow of the current reading (R177). -/
def State.accumulate (s : State) (dtUs : Int) : State :=
  s.setAcc (accumulated s.accX s.flowCompX dtUs) (accumulated s.accY s.flowCompY dtUs)

/-- The gap test: accumulate exactly when dt_us < GAP_US, a negative dt_us included (R176). -/
def State.gapTest (s : State) (dtUs : Int) : State :=
  if dtUs < (s.gapUs.toNat : Int) then s.accumulate dtUs else s

/-- `Integrate(t)`: the first decoded frame only records its time (R174); every later one takes the gap test against
the previous time (R175, R176) and then records its own, accumulated or not (R178). -/
def State.integrate (s : State) (t : BitVec 64) : State :=
  if s.prevValid then (s.gapTest (intervalUs t s.prevTimeUs)).setPrev t else s.setPrev t

/-! ### Accept -/

/-- Every accepted frame counts, whether or not it decodes (R171). -/
def State.countSample (s : State) : State := s.setSampleCount (saturatingSucc s.sampleCount)

/-- The five schema decodes of 41_field_decoder.md R147, all or nothing: none if some field is a DecodeError. -/
def State.decodeSchema (s : State) : Option (Data × Data × Data × Data × Data) :=
  match s.fieldDecode .u64x1 0 8, s.fieldDecode .f32x2 8 16, s.fieldDecode .f32x1 16 20,
    s.fieldDecode .i16x2 20 24, s.fieldDecode .u8x1 25 26 with
  | some time, some flow, some dist, some raw, some qual => some (time, flow, dist, raw, qual)
  | _, _, _, _, _ => none

/-- `Accept()`: the driver's update for one accepted frame, and the response code of its BYTE (R170-R173). -/
def State.accept (s : State) : State × RspCode :=
  match s.decodeSchema with
  | none => (s.countSample.setDerr true, .decodeErr)
  | some (time, flow, dist, raw, qual) =>
    (((s.countSample.setDerr false).setReading time flow dist raw qual).integrate time, .ok)

/-! ### READ -/

/-- READ: an unmapped address answers ADDR_ERR, a reading register while VALID = 0 ACCESS_ERR, any other register its
word (R181). No state changes. -/
def execRead (addr : Byte) (s : State) : Host.Outcome State Fault Refusal :=
  match regAt addr with
  | none => .next (s.raise .addrErr)
  | some r => if regGated r && !s.valid then .next (s.raise .accessErr) else .next (s.respond .ok (s.regValue r) false)

end Sys2Proof.Machine
end

