-- ==== Sys2Proof/Machine/Parser.lean ====
section
/-! DEFINITION. The frame parser: BYTE (40_frame_parser.md R110) and its branches (R111-R122). -/

namespace Sys2Proof.Machine

/-- A sentinel, in any parser state: restart framing with an empty payload (R112). -/
def State.restartFrame (s : State) : State := (s.setPstate .gotStx).setPayloadCount 0

/-- The state after the message identifier: a zero declared length is complete at once (R115). -/
def afterMsgId (declLen : Byte) : PState := if declLen = 0 then .gotCka else .inPayload

/-- GOT_COMP: the byte is the message identifier, and a fresh empty payload is started (R115). -/
def State.takeMsgId (s : State) (b : Byte) : State :=
  ((s.setMsgId b).setPayloadCount 0).setPstate (afterMsgId s.declLen)

/-- IN_PAYLOAD: append the byte; the payload is complete when the new count equals the declared length (R116). -/
def State.takePayloadByte (s : State) (b : Byte) : Host.Outcome State Fault Refusal :=
  match s.appendPayload b with
  | none => .fault .payloadAddress
  | some s' => .next (if s'.payloadCount = s'.declLen then s'.setPstate .gotCka else s').done

/-- GOT_CKB: a target frame completes, with the event and Accept (R118, R120); any other stays in GOT_CKB (R117). -/
def State.takeCkb (s : State) : State :=
  if s.msgId = Config.targetId then
    let r := (s.setPstate .idle).accept
    r.1.respond r.2 0 true
  else s.done

/-- The branch of the current parser state on a non-sentinel byte (R113-R121). -/
def State.parse (s : State) (b : Byte) : Host.Outcome State Fault Refusal :=
  match s.pstate with
  | .idle => .next s.done
  | .gotStx => .next ((s.setDeclLen b).setPstate .gotLen).done
  | .gotLen => .next (s.setPstate .gotSeq).done
  | .gotSeq => .next (s.setPstate .gotSys).done
  | .gotSys => .next (s.setPstate .gotComp).done
  | .gotComp => .next (s.takeMsgId b).done
  | .inPayload => s.takePayloadByte b
  | .gotCka => .next (s.setPstate .gotCkb).done
  | .gotCkb => .next s.takeCkb

/-- BYTE: refused while TERR = 1 (R111); a sentinel before the state's own branch (R112). -/
def execByte (b : Byte) (s : State) : Host.Outcome State Fault Refusal :=
  if s.terr then .next (s.raise .transportErr)
  else if b = Config.sentinel then .next s.restartFrame.done
  else s.parse b

end Sys2Proof.Machine
end

