-- ==== Sys2Proof/Machine/Dispatch.lean ====
section
/-! DEFINITION. One arm per operation. -/

namespace Sys2Proof.Machine

/-- The meaning of an operation: state to state and response (00_scope.md R10). -/
def exec (i : Instr) (s : State) : Host.Outcome State Fault Refusal :=
  match i with
  | .byte b => Sys2Proof.Machine.execByte b s
  | .rxerr => Sys2Proof.Machine.execRxerr s
  | .read addr => Sys2Proof.Machine.execRead addr s
  | .decodeI16x2 lo hi => Sys2Proof.Machine.execDecodeI16x2 lo hi s
  | .decodeF32x2 lo hi => Sys2Proof.Machine.execDecodeF32x2 lo hi s
  | .decodeF32x1 lo hi => Sys2Proof.Machine.execDecodeF32x1 lo hi s
  | .decodeU8x1 lo hi => Sys2Proof.Machine.execDecodeU8x1 lo hi s
  | .decodeU64x1 lo hi => Sys2Proof.Machine.execDecodeU64x1 lo hi s
  | .reset => Sys2Proof.Machine.execReset s

end Sys2Proof.Machine
end

