-- ==== Sys2Proof/Machine/Apply.lean ====
section
/-! DEFINITION. What one presented input does, and a run as the spec means it: a finite sequence of inputs applied one
after another, with the responses they give (00_scope.md R10, 20_memory.md R70). -/

namespace Sys2Proof.Machine

/-- A command word is decoded and its operation run, or it is ILLEGAL (30_encoding.md R88, R91). -/
def applyWord (w : Word) (s : State) : Host.Outcome State Fault Refusal :=
  match decode w with
  | .ok i => exec i s
  | .error _ => execIllegal s

/-- One presented input. -/
def applyInput (i : Input) (s : State) : Host.Outcome State Fault Refusal :=
  match i with
  | .command w => applyWord w s
  | .resetPin => execResetPin s

/-- A run: the inputs in order, the last state and the responses in order. A fault or a refusal ends it. -/
def runInputs : List Input → State → Host.Outcome (State × List Response) Fault Refusal
  | [], s => .next (s, [])
  | i :: is, s =>
    match applyInput i s with
    | .fault r => .fault r
    | .refused r => .refused r
    | .next s' =>
      match runInputs is s' with
      | .fault r => .fault r
      | .refused r => .refused r
      | .next (t, rs) => .next (t, s'.rsp.toList ++ rs)

/-- The inputs by which the transport delivers bytes: one BYTE word each, in order (60_exceptions.md R242). -/
def byteInputs (bs : List Byte) : List Input := bs.map fun b => .command (encode (.byte b))

/-- Bytes delivered one after another (40_frame_parser.md R110). -/
def feed (bs : List Byte) (s : State) : Host.Outcome (State × List Response) Fault Refusal :=
  runInputs (byteInputs bs) s

end Sys2Proof.Machine
end

