-- ==== Sys2Proof/Machine/Step.lean ====
section
/-! DEFINITION. One step: the oldest presented input is taken and applied; with none presented nothing changes. -/

namespace Sys2Proof.Machine

/-- One step of the machine (00_scope.md R10, 20_memory.md R70). -/
def step (s : State) : Host.Outcome State Fault Refusal :=
  match s.takeInput with
  | none => execIdle s
  | some (i, s') => applyInput i s'

/-- The command word with these bits presented next, ahead of the inputs already there: the block runs no stored
program, and what runs next is what the environment presents (10_state.md R38, log entry 11). -/
def State.withFetchWord (s : State) (nbits w : Nat) : State :=
  s.setInputs (.command (BitVec.ofNat 32 (w % 2 ^ nbits)) :: s.inputs)

end Sys2Proof.Machine
end

