-- ==== Sys2Proof/Machine/Cycle.lean ====
section
/-! DEFINITION. The cycle mapping of 70_reset_and_hazards.md R270: what one clock edge applies, from the input pins, in
the order of 60_exceptions.md R237. No other file depends on it. -/

namespace Sys2Proof.Machine

/-- The input pins at one clock edge (R270): `rst`; `rx_valid` with `rx_data`; `rx_err`; `cmd_valid` with `cmd`. -/
structure Pins where
  rst : Bool
  rx : Option Byte
  rxErr : Bool
  cmd : Option Word
  deriving DecidableEq, Repr

/-- The word on the command port is RESET, which R237 puts first. -/
def isResetWord (w : Word) : Bool := w == encode .reset

/-- The inputs of one clock edge in the order RESET (pin, then word), RXERR, BYTE, then the host's other word (R237).
A word that is not RESET stands last (log entry 9).
Where `rx_valid` and `rx_err` are both high, both operations run, RXERR first: R237 and D24 order them, but R270 allows one
operation per source, and R237 counts the two as one source (DESIGN CHOICE, log entry 12). -/
def Pins.inputs (p : Pins) : List Input :=
  (if p.rst then [.resetPin] else [])
    ++ ((p.cmd.filter isResetWord).map Input.command).toList
    ++ (if p.rxErr then [.command (encode .rxerr)] else [])
    ++ (p.rx.map fun b => Input.command (encode (.byte b))).toList
    ++ ((p.cmd.filter fun w => !isResetWord w).map Input.command).toList

/-- One clock edge: the last state and one response per operation (R270). -/
def clockEdge (p : Pins) (s : State) : Host.Outcome (State × List Response) Fault Refusal :=
  runInputs p.inputs s

end Sys2Proof.Machine
end

