-- ==== Sys2Proof/Safety.lean ====
section
/-! DEFINITION. What counts as a safe state and a safe run, in the terms the statements use: the invariants of
10_state.md R52, which inputs reset the block, when a byte completes a frame, what the driver holds, and what it means
for a binary64 pattern to be the correctly rounded value of an exact number. -/

namespace Sys2Proof.Machine

/-! ### The invariants of the reachable states -/

/-- 10_state.md R52, (a) being PSTATE's type; with the canonical form of the payload space. -/
structure Inv (s : State) : Prop where
  /-- PAYLOAD_BUF is in canonical form, every cell inside the payload space. -/
  payloadCanonical : s.payload.wf
  /-- (b) -/
  inPayload : s.pstate = .inPayload → 1 ≤ s.declLen.toNat ∧ s.payloadCount.toNat < s.declLen.toNat
  /-- (c) -/
  inChecksum : s.pstate = .gotCka ∨ s.pstate = .gotCkb → s.payloadCount = s.declLen
  /-- (d) -/
  inHeader : s.pstate ∈ [PState.gotStx, .gotLen, .gotSeq, .gotSys, .gotComp] → s.payloadCount = 0
  /-- (e) -/
  inIdle : s.pstate = .idle →
    (s.declLen = 0 ∧ s.msgId = 0 ∧ s.payloadCount = 0) ∨ (s.msgId = Config.targetId ∧ s.payloadCount = s.declLen)
  /-- (f): index 255 is never needed. -/
  countFits : s.payloadCount.toNat ≤ 255 ∧ (s.pstate = .inPayload → s.payloadCount.toNat < Config.payloadCap)
  /-- (g) -/
  latched : s.valid = true → s.prevValid = true ∧ s.prevTimeUs = s.timeUs
  /-- (h): a sentinel is never taken as LEN. -/
  lenNotSentinel : s.declLen ≠ Config.sentinel

/-! ### Vocabulary of the statements -/

/-- The response (OK, 0, 0). -/
def okRsp : Response := { code := .ok, data := 0, ev := false }

/-- An input that resets the block: the pin, or the command word of RESET (43_host_control.md R211). -/
def Input.isReset : Input → Bool
  | .resetPin => true
  | .command w => w == 0xF0000000#32

/-- R88 (a): OP = w[31:28] is 0x0 or 0x5 to 0xE. -/
def rejectsOp (w : Word) : Prop :=
  w.extractLsb' 28 4 = 0 ∨ (5 ≤ (w.extractLsb' 28 4).toNat ∧ (w.extractLsb' 28 4).toNat ≤ 14)

/-- R88 (b) with R85's table: w[27:19] must be 0 for every OP, w[18:16] and w[15:8] for every OP but DECODE (0x4), w[7:0]
for RXERR (0x2) and RESET (0xF). -/
def rejectsBits (w : Word) : Prop :=
  w.extractLsb' 19 9 ≠ 0 ∨
  (w.extractLsb' 28 4 ≠ 4 ∧ (w.extractLsb' 16 3 ≠ 0 ∨ w.extractLsb' 8 8 ≠ 0)) ∨
  ((w.extractLsb' 28 4 = 2 ∨ w.extractLsb' 28 4 = 15) ∧ w.extractLsb' 0 8 ≠ 0)

/-- R88 (c): DECODE with TAG = w[18:16] of 5, 6 or 7. -/
def rejectsTag (w : Word) : Prop :=
  w.extractLsb' 28 4 = 4 ∧ 5 ≤ (w.extractLsb' 16 3).toNat

/-- BYTE b completes an accepted frame here (40_frame_parser.md R118). -/
def State.completesFrame (s : State) (b : Byte) : Prop :=
  s.terr = false ∧ b ≠ 0xFE#8 ∧ s.pstate = .gotCkb ∧ s.msgId = 100#8

/-- The reading: VALID and the seven reading registers (10_state.md R26-R31). -/
def State.reading (s : State) :
    Bool × BitVec 64 × BitVec 32 × BitVec 32 × BitVec 32 × BitVec 16 × BitVec 16 × Byte :=
  (s.valid, s.timeUs, s.flowCompX, s.flowCompY, s.groundDistance, s.rawFlowX, s.rawFlowY, s.quality)

/-- The integrator's previous time (10_state.md R32). -/
def State.prev (s : State) : Bool × BitVec 64 := (s.prevValid, s.prevTimeUs)

/-- Two states that differ at most in the payload bytes at or above PAYLOAD_COUNT (20_memory.md R62). -/
def State.SameBelowCount (s t : State) : Prop :=
  t = { s with payload := t.payload } ∧ ∀ a < s.payloadCount.toNat, t.payload.read a = s.payload.read a

/-- The n little-endian bytes of a number (20_memory.md R63). -/
def leBytes : Nat → Nat → List Byte
  | 0, _ => []
  | n + 1, v => BitVec.ofNat 8 v :: leBytes n (v / 256)

/-- The payload of the target message from its field values: five fields, byte 24, and any bytes after
(41_field_decoder.md R147, R148). -/
def schemaPayload (time : BitVec 64) (flowX flowY dist : BitVec 32) (rawX rawY : BitVec 16) (byte24 qual : Byte)
    (rest : List Byte) : List Byte :=
  leBytes 8 time.toNat ++ leBytes 4 flowX.toNat ++ leBytes 4 flowY.toNat ++ leBytes 4 dist.toNat
    ++ leBytes 2 rawX.toNat ++ leBytes 2 rawY.toNat ++ [byte24, qual] ++ rest

/-! ### Correct rounding -/

/-- The number a finite pattern stands for; none for NaN and the infinities. -/
def FloatVal.toRat : FloatVal → Option ℚ
  | .fin neg m e => some ((if neg then -1 else 1) * (m : ℚ) * (2 : ℚ) ^ e)
  | .nan => none
  | .inf _ => none

/-- Every finite number at or beyond this magnitude rounds to an infinity: the midpoint between the largest finite
binary64 number and 2^1024. -/
def overflowBound : ℚ := (2 ^ 54 - 1) * 2 ^ 970

/-- `r` is the exact number `x` rounded to binary64 by roundTiesToEven: no finite binary64 number is nearer to x, and
where another is as near, r's last bit is 0; from the overflow bound on, r is the infinity of x's sign (IEEE 754, PRESUMED, log entry 10). -/
def RoundedNearestEven (x : ℚ) (r : BitVec 64) : Prop :=
  (overflowBound ≤ |x| ∧ unpack64 r = .inf (decide (x < 0))) ∨
  (|x| < overflowBound ∧ ∃ v, (unpack64 r).toRat = some v ∧
    ∀ c y, (unpack64 c).toRat = some y → |v - x| ≤ |y - x| ∧ (|v - x| = |y - x| → y ≠ v → r.getLsbD 0 = false))

end Sys2Proof.Machine
end

