-- ==== Sys2Proof/Certificates/Slice0/Obligations.lean ====
section
/-! DEFINITION. The statements about the block, one per rule or group of rules of spec/. -/

open Sys2Proof Sys2Proof.Machine

/-! ### Command words (30_encoding.md) -/

/-- Decoding the word of an operation gives the operation back, whatever its operands (R85-R87). -/
def Obligations.EncodedOperationDecodesBack : Prop :=
  ∀ i : Instr, i.wf = true → decode (encode i) = .ok i

/-- A word that decodes is the word of the operation it decodes to: no two words mean the same, and no bit of a word is
dropped (R85-R87, R91). -/
def Obligations.DecodedWordIsItsEncoding : Prop :=
  ∀ (w : Word) (i : Instr), decode w = .ok i → encode i = w

/-- R88, R89, R212: a word is ILLEGAL exactly when (a), (b) or (c) holds, checked in that order; it changes no state and
returns CMD_ERR whichever check failed and whatever TERR is. A READ of any address, mapped or not, decodes as READ. -/
def Obligations.IllegalWordsAnswerCmdErr : Prop :=
  ∀ w : Word,
    ((∃ e, decode w = .error e) ↔ rejectsOp w ∨ rejectsBits w ∨ rejectsTag w) ∧
    (decode w = .error .reservedOp ↔ rejectsOp w) ∧
    (decode w = .error .reservedBits ↔ ¬ rejectsOp w ∧ rejectsBits w) ∧
    (decode w = .error .reservedTag ↔ ¬ rejectsOp w ∧ ¬ rejectsBits w ∧ rejectsTag w) ∧
    (∀ e s, decode w = .error e → applyWord w s = .next { s with rsp := some ⟨.cmdErr, 0, false⟩ }) ∧
    (∀ addr : Byte, decode (0x30000000#32 ||| addr.setWidth 32) = .ok (.read addr))

/-- R86, R87: a word decodes to an operation exactly when it lies in that operation's row (match and mask), and the
operands are its bytes [7:0] and [15:8], neither extended nor shifted. -/
def Obligations.DecoderFollowsTheOpcodeTable : Prop :=
  ∀ w : Word,
    (∀ b, decode w = .ok (.byte b) ↔ w &&& 0xFFFFFF00#32 = 0x10000000#32 ∧ b = w.extractLsb' 0 8) ∧
    (decode w = .ok .rxerr ↔ w = 0x20000000#32) ∧
    (∀ a, decode w = .ok (.read a) ↔ w &&& 0xFFFFFF00#32 = 0x30000000#32 ∧ a = w.extractLsb' 0 8) ∧
    (∀ lo hi, decode w = .ok (.decodeI16x2 lo hi) ↔
      w &&& 0xFFFF0000#32 = 0x40000000#32 ∧ hi = w.extractLsb' 8 8 ∧ lo = w.extractLsb' 0 8) ∧
    (∀ lo hi, decode w = .ok (.decodeF32x2 lo hi) ↔
      w &&& 0xFFFF0000#32 = 0x40010000#32 ∧ hi = w.extractLsb' 8 8 ∧ lo = w.extractLsb' 0 8) ∧
    (∀ lo hi, decode w = .ok (.decodeF32x1 lo hi) ↔
      w &&& 0xFFFF0000#32 = 0x40020000#32 ∧ hi = w.extractLsb' 8 8 ∧ lo = w.extractLsb' 0 8) ∧
    (∀ lo hi, decode w = .ok (.decodeU8x1 lo hi) ↔
      w &&& 0xFFFF0000#32 = 0x40030000#32 ∧ hi = w.extractLsb' 8 8 ∧ lo = w.extractLsb' 0 8) ∧
    (∀ lo hi, decode w = .ok (.decodeU64x1 lo hi) ↔
      w &&& 0xFFFF0000#32 = 0x40040000#32 ∧ hi = w.extractLsb' 8 8 ∧ lo = w.extractLsb' 0 8) ∧
    (decode w = .ok .reset ↔ w = 0xF0000000#32)

/-- R91: no two rows of the opcode table overlap, and exactly the words that no row matches are ILLEGAL. -/
def Obligations.OpcodeRowsAreDisjointAndTotal : Prop :=
  (∀ (w : Word) (i j : Instr), i.rowMatches w = true → j.rowMatches w = true → i.row = j.row) ∧
  (∀ w : Word, (∀ i : Instr, i.rowMatches w = false) ↔ ∃ e, decode w = .error e)

/-- R94: the worked encodings. -/
def Obligations.WorkedEncodingsDecode : Prop :=
  decode 0x40011008#32 = .ok (.decodeF32x2 8 16) ∧ encode (.decodeF32x2 8 16) = 0x40011008#32 ∧
  opField 0x40011008#32 = 4 ∧ tagField 0x40011008#32 = 1 ∧ hiField 0x40011008#32 = 16 ∧ loField 0x40011008#32 = 8 ∧
  decode 0x100000FE#32 = .ok (.byte 0xFE) ∧ decode 0x30000011#32 = .ok (.read 0x11) ∧
  decode 0x40051008#32 = .error .reservedTag ∧ decode 0x10000100#32 = .error .reservedBits

/-- R93: what the pseudo-instructions expand to; FRAME's LEN byte is the number of listed payload bytes, and NOP has no
effect. -/
def Obligations.PseudoInstructionsExpand : Prop :=
  (∀ bs : List Byte, (Pseudo.bytes bs).expand = bs.map Instr.byte) ∧
  (∀ (seq sys comp msgid : Byte) (payload : List Byte) (cka ckb : Byte),
    (Pseudo.frame seq sys comp msgid payload cka ckb).wf = true →
    ∃ len : Byte, len.toNat = payload.length ∧
      (Pseudo.frame seq sys comp msgid payload cka ckb).expand =
        [.byte 0xFE, .byte len, .byte seq, .byte sys, .byte comp, .byte msgid] ++ payload.map Instr.byte
          ++ [.byte cka, .byte ckb]) ∧
  Pseudo.nop.expand = [.read 0x00] ∧
  (∀ s : State, exec (.read 0x00) s = .next { s with rsp := some ⟨.ok, s.statusWord, false⟩ }) ∧
  Pseudo.snapshot.expand = [.read 0x04, .read 0x10, .read 0x11, .read 0x12, .read 0x13, .read 0x14, .read 0x04]

/-! ### The payload space (20_memory.md) -/

/-- R63: a multi-byte read is little-endian: the byte at index a + k weighs 2^(8k). -/
def Obligations.PayloadReadIsLittleEndian : Prop :=
  ∀ (m : Memory) (a n : Nat),
    m.readLE a n = ∑ k ∈ Finset.range n, (m.read (a + k)).toNat * 2 ^ (8 * k)

/-- Two payload buffers in canonical form that read the same at every index are the same data (20_memory.md R60, the
model's own form of PAYLOAD_BUF). -/
def Obligations.CanonicalPayloadsAreDeterminedByTheirBytes : Prop :=
  ∀ m m' : Memory, m.wf → m'.wf → (∀ a, m.read a = m'.read a) → m = m'

/-- R62: no operation observes a payload byte at or above PAYLOAD_COUNT. A decode reads only below it, and two states
that differ only there take the same step, to states that again differ only there, with the same response. -/
def Obligations.PayloadAboveCountIsUnobservable : Prop :=
  (∀ (s : State) (t : TypeTag) (lo hi : Nat) (v : Data), s.fieldDecode t lo hi = some v →
    1 ≤ tagWidth t ∧ lo + tagWidth t ≤ s.payloadCount.toNat) ∧
  (∀ s u : State, s.payload.wf → u.payload.wf → s.SameBelowCount u →
    (∀ s', step s = .next s' → ∃ u', step u = .next u' ∧ s'.SameBelowCount u' ∧ u'.rsp = s'.rsp) ∧
    (∀ f, step s = .fault f → step u = .fault f))

/-! ### Reset (70_reset_and_hazards.md, 43_host_control.md) -/

/-- R261: the reset state, element by element. (PAYLOAD_BUF's contents and GAP_US's value are not stated here: the spec
leaves the first unspecified and the second is a parameter.) -/
def Obligations.ResetStateHasTheStatedValues : Prop :=
  State.reset.pstate = .idle ∧ State.reset.declLen = 0 ∧ State.reset.msgId = 0 ∧ State.reset.payloadCount = 0 ∧
  State.reset.valid = false ∧ State.reset.timeUs = 0 ∧ State.reset.flowCompX = 0 ∧ State.reset.flowCompY = 0 ∧
  State.reset.groundDistance = 0 ∧ State.reset.rawFlowX = 0 ∧ State.reset.rawFlowY = 0 ∧ State.reset.quality = 0 ∧
  State.reset.prevValid = false ∧ State.reset.prevTimeUs = 0 ∧
  State.reset.accX = 0x0000000000000000#64 ∧ State.reset.accY = 0x0000000000000000#64 ∧
  State.reset.sampleCount = 0 ∧ State.reset.derr = false ∧ State.reset.terr = false

/-- R211: RESET, the word 0xF0000000, puts every element at its reset value in every state and answers (OK, 0, 0); the
constants keep their values; a READ of STATUS after it answers (OK, 0, 0). (PAYLOAD_BUF is left unspecified, as in the
rule.) -/
def Obligations.ResetOperationResetsEveryElement : Prop :=
  decode 0xF0000000#32 = .ok .reset ∧
  (∀ s : State, ∃ t, runInputs [.command 0xF0000000#32, .command 0x30000000#32] s =
    .next (t, [⟨.ok, 0, false⟩, ⟨.ok, 0, false⟩])) ∧
  ∀ s : State, ∃ t, exec .reset s = .next t ∧
    t.pstate = .idle ∧ t.declLen = 0 ∧ t.msgId = 0 ∧ t.payloadCount = 0 ∧
    t.valid = false ∧ t.timeUs = 0 ∧ t.flowCompX = 0 ∧ t.flowCompY = 0 ∧
    t.groundDistance = 0 ∧ t.rawFlowX = 0 ∧ t.rawFlowY = 0 ∧ t.quality = 0 ∧
    t.prevValid = false ∧ t.prevTimeUs = 0 ∧ t.accX = 0x0000000000000000#64 ∧ t.accY = 0x0000000000000000#64 ∧
    t.sampleCount = 0 ∧ t.derr = false ∧ t.terr = false ∧
    t.gapUs = s.gapUs ∧ t.inputs = s.inputs ∧ t.rsp = some ⟨.ok, 0, false⟩

/-- R260: the reset pin has the effect of RESET on every element of the state, and both put every element at its reset value.
(PAYLOAD_BUF's contents and whether a response stands after the pin are the model's choice, log entries 6 and 8, and are
not stated.) -/
def Obligations.ResetPinHasTheEffectOfReset : Prop :=
  ∀ s : State, ∃ t u, exec .reset s = .next t ∧ applyInput .resetPin s = .next u ∧ u = { t with rsp := u.rsp } ∧
    u = { State.reset with payload := u.payload, gapUs := s.gapUs, inputs := s.inputs, rsp := u.rsp }

/-- R262: after a reset in the middle of anything, every byte up to the first sentinel is ignored: it answers (OK, 0, 0), and
the parser stays in IDLE with every element at its reset value. -/
def Obligations.BytesAfterResetAreIgnoredUpToASentinel : Prop :=
  ∀ (bs : List Byte) (s : State), (∀ b ∈ bs, b ≠ 0xFE#8) →
    ∃ t, runInputs (.command 0xF0000000#32 :: byteInputs bs) s = .next (t, List.replicate (bs.length + 1) okRsp) ∧
      t = { State.reset with payload := t.payload, gapUs := s.gapUs, inputs := s.inputs, rsp := t.rsp }

/-! ### BYTE: the frame parser (40_frame_parser.md) -/

/-- R111: while TERR = 1 BYTE changes no state and returns TRANSPORT_ERR, and only RESET leaves this condition. -/
def Obligations.ByteIsRefusedWhileTerr : Prop :=
  (∀ (b : Byte) (s : State), s.terr = true →
    exec (.byte b) s = .next { s with rsp := some ⟨.transportErr, 0, false⟩ }) ∧
  (∀ (i : Instr) (s t : State), exec i s = .next t → s.terr = true → t.terr = false → i = .reset)

/-- R112: a sentinel, in any parser state, starts a frame with an empty payload and changes nothing else. -/
def Obligations.SentinelRestartsFraming : Prop :=
  ∀ s : State, s.terr = false →
    exec (.byte 0xFE) s = .next { s with pstate := .gotStx, payloadCount := 0, rsp := some ⟨.ok, 0, false⟩ }

/-- R113, R114, R119, R121: LEN is kept in DECL_LEN; SEQ, SYS, COMP and CKA are consumed and discarded; a byte in IDLE is
ignored. Each answers (OK, 0, 0) and changes nothing else. -/
def Obligations.HeaderBytesAdvanceTheParser : Prop :=
  ∀ (b : Byte) (s : State), s.terr = false → b ≠ 0xFE#8 →
    (s.pstate = .idle → exec (.byte b) s = .next { s with rsp := some ⟨.ok, 0, false⟩ }) ∧
    (s.pstate = .gotStx →
      exec (.byte b) s = .next { s with declLen := b, pstate := .gotLen, rsp := some ⟨.ok, 0, false⟩ }) ∧
    (s.pstate = .gotLen → exec (.byte b) s = .next { s with pstate := .gotSeq, rsp := some ⟨.ok, 0, false⟩ }) ∧
    (s.pstate = .gotSeq → exec (.byte b) s = .next { s with pstate := .gotSys, rsp := some ⟨.ok, 0, false⟩ }) ∧
    (s.pstate = .gotSys → exec (.byte b) s = .next { s with pstate := .gotComp, rsp := some ⟨.ok, 0, false⟩ }) ∧
    (s.pstate = .gotCka → exec (.byte b) s = .next { s with pstate := .gotCkb, rsp := some ⟨.ok, 0, false⟩ })

/-- R115: the message identifier is kept, the payload starts empty, and a declared length of 0 is complete at once. -/
def Obligations.MessageIdByteStartsThePayload : Prop :=
  ∀ (b : Byte) (s : State), s.terr = false → b ≠ 0xFE#8 → s.pstate = .gotComp →
    (1 ≤ s.declLen.toNat → exec (.byte b) s =
      .next { s with msgId := b, payloadCount := 0, pstate := .inPayload, rsp := some ⟨.ok, 0, false⟩ }) ∧
    (s.declLen = 0 → exec (.byte b) s =
      .next { s with msgId := b, payloadCount := 0, pstate := .gotCka, rsp := some ⟨.ok, 0, false⟩ })

/-- R116: a payload byte is stored at index PAYLOAD_COUNT, every other index reads as before, the count goes up by one, and
the parser moves on when the new count equals DECL_LEN. Nothing else changes. -/
def Obligations.PayloadByteIsAppended : Prop :=
  ∀ (b : Byte) (s : State), s.terr = false → b ≠ 0xFE#8 → s.pstate = .inPayload → s.payload.wf →
    s.payloadCount.toNat < 255 →
    ∃ t, exec (.byte b) s = .next t ∧
      t = { s with
        payload := t.payload
        payloadCount := s.payloadCount + 1
        pstate := if s.payloadCount + 1 = s.declLen then .gotCka else .inPayload
        rsp := some ⟨.ok, 0, false⟩ } ∧
      t.payloadCount.toNat = s.payloadCount.toNat + 1 ∧
      t.payload.read s.payloadCount.toNat = b ∧
      (∀ a, a ≠ s.payloadCount.toNat → t.payload.read a = s.payload.read a) ∧
      t.payload.wf

/-- Nothing refuses, and the one fault is a payload byte with PAYLOAD_COUNT = 255, an index the payload space lacks
(20_memory.md R60; the fault is the model's choice for a state R52(b) rules out, log entry 7). -/
def Obligations.OnlyAPayloadByteAtIndex255Stops : Prop :=
  ∀ (i : Instr) (s : State),
    (∀ r, exec i s ≠ .refused r) ∧
    (∀ f, exec i s = .fault f ↔ f = .payloadAddress ∧
      ∃ b, i = .byte b ∧ s.terr = false ∧ b ≠ 0xFE#8 ∧ s.pstate = .inPayload ∧ s.payloadCount = 255)

/-- R117: after a non-target frame every non-sentinel byte, however many come, is consumed in GOT_CKB with no event and no
other change; only a sentinel or RESET leaves GOT_CKB. -/
def Obligations.NonTargetFrameStaysInGotCkb : Prop :=
  (∀ (bs : List Byte) (s : State), s.terr = false → s.pstate = .gotCkb → s.msgId ≠ 100#8 → (∀ b ∈ bs, b ≠ 0xFE#8) →
    ∃ t, feed bs s = .next (t, List.replicate bs.length okRsp) ∧ t = { s with rsp := t.rsp }) ∧
  (∀ (i : Instr) (s t : State), s.pstate = .gotCkb → s.msgId ≠ 100#8 → exec i s = .next t → t.pstate ≠ .gotCkb →
    i = .byte 0xFE ∨ i = .reset)

/-- R118: a byte in GOT_CKB of a target frame is consumed, raises the event and leaves the parser in IDLE; Accept runs in
the same operation, so SAMPLE_COUNT has moved when it ends. The frame's parser elements stay. -/
def Obligations.TargetFrameCompletesInIdle : Prop :=
  ∀ (b : Byte) (s : State), s.completesFrame b →
    ∃ t code, exec (.byte b) s = .next t ∧ t.pstate = .idle ∧ t.rsp = some ⟨code, 0, true⟩ ∧
      t.sampleCount.toNat = min (s.sampleCount.toNat + 1) (2 ^ 64 - 1) ∧
      t.declLen = s.declLen ∧ t.msgId = s.msgId ∧ t.payloadCount = s.payloadCount ∧ t.payload = s.payload ∧
      t.terr = s.terr ∧ t.gapUs = s.gapUs ∧ t.inputs = s.inputs

/-! ### Accept and Integrate (42_driver_integrator.md) -/

/-- R173 with the schema R147: an accepted frame of at least 26 payload bytes writes all seven reading registers from the
same payload, little-endian at the schema's offsets, sets VALID, clears DERR and answers OK; and no other operation sets
VALID. -/
def Obligations.AcceptedFrameLatchesTheReading : Prop :=
  (∀ (b : Byte) (s : State), s.completesFrame b → 26 ≤ s.payloadCount.toNat →
    ∃ t, exec (.byte b) s = .next t ∧ t.rsp = some ⟨.ok, 0, true⟩ ∧ t.valid = true ∧ t.derr = false ∧
      t.timeUs = BitVec.ofNat 64 (s.payload.readLE 0 8) ∧
      t.flowCompX = BitVec.ofNat 32 (s.payload.readLE 8 4) ∧
      t.flowCompY = BitVec.ofNat 32 (s.payload.readLE 12 4) ∧
      t.groundDistance = BitVec.ofNat 32 (s.payload.readLE 16 4) ∧
      t.rawFlowX = BitVec.ofNat 16 (s.payload.readLE 20 2) ∧
      t.rawFlowY = BitVec.ofNat 16 (s.payload.readLE 22 2) ∧
      t.quality = s.payload.read 25 ∧
      t.prevValid = true ∧ t.prevTimeUs = t.timeUs) ∧
  (∀ (i : Instr) (s t : State), exec i s = .next t → s.valid = false → t.valid = true →
    ∃ b, i = .byte b ∧ s.completesFrame b ∧ 26 ≤ s.payloadCount.toNat)

/-- R148: payload byte 24 and every byte at index 26 or above have no effect on any state: an accepted frame takes two states
that differ only in those bytes to states that again differ only there, with the same response. -/
def Obligations.UndecodedPayloadBytesHaveNoEffect : Prop :=
  ∀ (b : Byte) (s t : State) (m : Memory), s.completesFrame b →
    (∀ a, a ≠ 24 → a < 26 → m.read a = s.payload.read a) → exec (.byte b) s = .next t →
    t.payload = s.payload ∧ exec (.byte b) { s with payload := m } = .next { t with payload := m }

/-- R172: an accepted frame of fewer than 26 payload bytes sets DERR, answers (DECODE_ERR, 0, 1), counts, and leaves VALID,
the reading, the previous time and the accumulators as they were; one of at least 26 clears DERR. -/
def Obligations.ShortFrameKeepsTheReading : Prop :=
  ∀ (b : Byte) (s : State), s.completesFrame b →
    (s.payloadCount.toNat < 26 → ∃ t, exec (.byte b) s = .next t ∧
      t = { s with
        pstate := .idle
        sampleCount := t.sampleCount
        derr := true
        rsp := some ⟨.decodeErr, 0, true⟩ } ∧
      t.sampleCount.toNat = min (s.sampleCount.toNat + 1) (2 ^ 64 - 1)) ∧
    (26 ≤ s.payloadCount.toNat → ∃ t, exec (.byte b) s = .next t ∧ t.derr = false)

/-- R171: the count goes up by one on every accepted frame, decoded or not, stays at 2^64 - 1, and no other operation but
RESET changes it. -/
def Obligations.SampleCountSaturates : Prop :=
  ∀ (i : Instr) (s t : State), exec i s = .next t → i ≠ .reset →
    ((∃ b, i = .byte b ∧ s.completesFrame b) →
      (s.sampleCount.toNat < 2 ^ 64 - 1 → t.sampleCount.toNat = s.sampleCount.toNat + 1) ∧
      (s.sampleCount.toNat = 2 ^ 64 - 1 → t.sampleCount = s.sampleCount)) ∧
    ((¬ ∃ b, i = .byte b ∧ s.completesFrame b) → t.sampleCount = s.sampleCount)

/-- R174: the first decoded frame records its time and accumulates nothing. -/
def Obligations.FirstDecodedFrameOnlyRecordsItsTime : Prop :=
  ∀ (b : Byte) (s : State), s.completesFrame b → 26 ≤ s.payloadCount.toNat → s.prevValid = false →
    ∃ t, exec (.byte b) s = .next t ∧ t.prevValid = true ∧
      t.prevTimeUs = BitVec.ofNat 64 (s.payload.readLE 0 8) ∧ t.accX = s.accX ∧ t.accY = s.accY

/-- R175, R176, R177, R178: for every frame after the first, with the exact interval since the previous time: below GAP_US, a
negative one included, the frame's own flow times the interval in seconds is added to each accumulator, in this order of
binary64 operations; from GAP_US on the accumulators stay; in both cases the time is recorded. -/
def Obligations.GapTestDecidesTheAccumulation : Prop :=
  ∀ (b : Byte) (s : State) (dtUs : ℤ), s.completesFrame b → 26 ≤ s.payloadCount.toNat → s.prevValid = true →
    dtUs = (s.payload.readLE 0 8 : ℤ) - (s.prevTimeUs.toNat : ℤ) →
    ∃ t, exec (.byte b) s = .next t ∧
      t.prevValid = true ∧ t.prevTimeUs = BitVec.ofNat 64 (s.payload.readLE 0 8) ∧
      (dtUs < (s.gapUs.toNat : ℤ) →
        t.accX = f64Add s.accX (f64Mul (f32ToF64 (BitVec.ofNat 32 (s.payload.readLE 8 4)))
          (f64Div (intToF64 dtUs) 0x412E848000000000#64)) ∧
        t.accY = f64Add s.accY (f64Mul (f32ToF64 (BitVec.ofNat 32 (s.payload.readLE 12 4)))
          (f64Div (intToF64 dtUs) 0x412E848000000000#64))) ∧
      ((s.gapUs.toNat : ℤ) ≤ dtUs → t.accX = s.accX ∧ t.accY = s.accY)

/-! ### READ and the register map (10_state.md, 42_driver_integrator.md) -/

/-- R181 with the map R39: an unmapped address answers ADDR_ERR; a reading register while VALID = 0 answers ACCESS_ERR; any
other register answers OK with its word. Nothing else changes. The word of READ is 0x30000000 with the address in [7:0]. -/
def Obligations.ReadAnswersTheAddressedRegister : Prop :=
  (∀ a : Byte, decode (0x30000000#32 ||| a.setWidth 32) = .ok (.read a)) ∧
  ∀ s : State,
    (∀ a : Byte, (9 ≤ a.toNat ∧ a.toNat ≤ 15) ∨ 21 ≤ a.toNat →
      exec (.read a) s = .next { s with rsp := some ⟨.addrErr, 0, false⟩ }) ∧
    (∀ a : Byte, 16 ≤ a.toNat → a.toNat ≤ 20 → s.valid = false →
      exec (.read a) s = .next { s with rsp := some ⟨.accessErr, 0, false⟩ }) ∧
    exec (.read 0x00) s = .next { s with rsp := some ⟨.ok, s.statusWord, false⟩ } ∧
    exec (.read 0x01) s = .next { s with rsp := some ⟨.ok, s.declLen.setWidth 64, false⟩ } ∧
    exec (.read 0x02) s = .next { s with rsp := some ⟨.ok, s.msgId.setWidth 64, false⟩ } ∧
    exec (.read 0x03) s = .next { s with rsp := some ⟨.ok, s.payloadCount.setWidth 64, false⟩ } ∧
    exec (.read 0x04) s = .next { s with rsp := some ⟨.ok, s.sampleCount, false⟩ } ∧
    exec (.read 0x05) s = .next { s with rsp := some ⟨.ok, s.prevTimeUs, false⟩ } ∧
    exec (.read 0x06) s = .next { s with rsp := some ⟨.ok, s.accX, false⟩ } ∧
    exec (.read 0x07) s = .next { s with rsp := some ⟨.ok, s.accY, false⟩ } ∧
    exec (.read 0x08) s = .next { s with rsp := some ⟨.ok, s.configWord, false⟩ } ∧
    (s.valid = true →
      exec (.read 0x10) s = .next { s with rsp := some ⟨.ok, s.timeUs, false⟩ } ∧
      exec (.read 0x11) s = .next { s with rsp := some ⟨.ok, s.flowCompY ++ s.flowCompX, false⟩ } ∧
      exec (.read 0x12) s = .next { s with rsp := some ⟨.ok, s.groundDistance.setWidth 64, false⟩ } ∧
      exec (.read 0x13) s = .next { s with rsp := some ⟨.ok, (s.rawFlowY ++ s.rawFlowX).setWidth 64, false⟩ } ∧
      exec (.read 0x14) s = .next { s with rsp := some ⟨.ok, s.quality.setWidth 64, false⟩ })

/-- R40 with the codes of R21: the fields of the word that READ STATUS answers, and its value at reset. -/
def Obligations.StatusWordFields : Prop :=
  State.reset.statusWord = 0x0000000000000000#64 ∧
  ∀ s : State, ∃ w : Data, exec (.read 0x00) s = .next { s with rsp := some ⟨.ok, w, false⟩ } ∧
    (w.extractLsb' 0 4).toNat =
      (match s.pstate with
        | .idle => 0 | .gotStx => 1 | .gotLen => 2 | .gotSeq => 3 | .gotSys => 4 | .gotComp => 5
        | .inPayload => 6 | .gotCka => 7 | .gotCkb => 8) ∧
    w.getLsbD 4 = s.valid ∧ w.getLsbD 5 = s.prevValid ∧ w.getLsbD 6 = s.derr ∧ w.getLsbD 7 = s.terr ∧
    w.extractLsb' 8 56 = 0

/-- R44: the fields of the word that READ CONFIG answers, its value with the default GAP_US, and that no operation, RESET
among them, changes it. -/
def Obligations.ConfigWordFields : Prop :=
  (∀ s : State, ∃ w : Data, exec (.read 0x08) s = .next { s with rsp := some ⟨.ok, w, false⟩ } ∧
    w.extractLsb' 0 8 = 0xFE#8 ∧ w.extractLsb' 8 8 = 0x64#8 ∧ w.extractLsb' 16 32 = s.gapUs ∧ w.extractLsb' 48 16 = 0) ∧
  (∀ s : State, s.gapUs = 100000#32 → s.configWord = 0x0000000186A064FE#64) ∧
  (∀ (i : Instr) (s t : State), exec i s = .next t → t.configWord = s.configWord)

/-- R47, R48, R49, and the lanes of R46: the reading words while VALID = 1: the lane at the lower payload offset is the lower
one, nothing is sign-extended, unused high bits are 0. While VALID = 0 the four reads fail with ACCESS_ERR. -/
def Obligations.ReadingWordLanes : Prop :=
  ∀ s : State,
    (s.valid = false → ∀ a ∈ [0x11#8, 0x12#8, 0x13#8, 0x14#8],
      exec (.read a) s = .next { s with rsp := some ⟨.accessErr, 0, false⟩ }) ∧
    (s.valid = true →
      (∃ w : Data, exec (.read 0x11) s = .next { s with rsp := some ⟨.ok, w, false⟩ } ∧
        w.extractLsb' 0 32 = s.flowCompX ∧ w.extractLsb' 32 32 = s.flowCompY) ∧
      (∃ w : Data, exec (.read 0x12) s = .next { s with rsp := some ⟨.ok, w, false⟩ } ∧
        w.extractLsb' 0 32 = s.groundDistance ∧ w.extractLsb' 32 32 = 0) ∧
      (∃ w : Data, exec (.read 0x13) s = .next { s with rsp := some ⟨.ok, w, false⟩ } ∧
        w.extractLsb' 0 16 = s.rawFlowX ∧ w.extractLsb' 16 16 = s.rawFlowY ∧ w.extractLsb' 32 32 = 0 ∧
        (w.extractLsb' 0 16).toInt = s.rawFlowX.toInt ∧ (w.extractLsb' 16 16).toInt = s.rawFlowY.toInt) ∧
      (∃ w : Data, exec (.read 0x14) s = .next { s with rsp := some ⟨.ok, w, false⟩ } ∧
        w.extractLsb' 0 8 = s.quality ∧ w.extractLsb' 8 56 = 0))

/-- R69: READ and DECODE change no state, and repeating one with no operation between gives the same response. -/
def Obligations.ReadsHaveNoSideEffect : Prop :=
  ∀ (i : Instr) (s : State), ((∃ a, i = .read a) ∨ ∃ tag lo hi, i = Instr.decodeWith tag lo hi) →
    ∃ t, exec i s = .next t ∧ t = { s with rsp := t.rsp } ∧ exec i t = .next t

/-- R65: right after an accepted frame that decodes, each reading register's word is the little-endian value of the payload
bytes it was decoded from. -/
def Obligations.ReadingWordsAreThePayloadBytes : Prop :=
  ∀ (b : Byte) (s : State), s.completesFrame b → 26 ≤ s.payloadCount.toNat →
    ∃ t, exec (.byte b) s = .next t ∧
      exec (.read 0x10) t = .next { t with rsp := some ⟨.ok, BitVec.ofNat 64 (s.payload.readLE 0 8), false⟩ } ∧
      exec (.read 0x11) t = .next { t with rsp := some ⟨.ok, BitVec.ofNat 64 (s.payload.readLE 8 8), false⟩ } ∧
      exec (.read 0x12) t = .next { t with rsp := some ⟨.ok, BitVec.ofNat 64 (s.payload.readLE 16 4), false⟩ } ∧
      exec (.read 0x13) t = .next { t with rsp := some ⟨.ok, BitVec.ofNat 64 (s.payload.readLE 20 4), false⟩ } ∧
      exec (.read 0x14) t = .next { t with rsp := some ⟨.ok, BitVec.ofNat 64 (s.payload.readLE 25 1), false⟩ }

/-! ### The field decoder (41_field_decoder.md) -/

/-- R141, R146: each DECODE answers the little-endian word of its range when the range has its tag's width and ends at or
below PAYLOAD_COUNT, and DECODE_ERR otherwise, whatever TERR and VALID are. Nothing else changes. The word of DECODE is
0x40000000 with the tag in [18:16], hi in [15:8] and lo in [7:0]; a reserved tag is CMD_ERR. -/
def Obligations.DecodeAnswersThePayloadField : Prop :=
  ∀ (lo hi : Byte) (s : State),
    let word (tag : Nat) : Word := 0x40000000#32 ||| BitVec.ofNat 32 (tag * 2 ^ 16 + hi.toNat * 2 ^ 8 + lo.toNat)
    (decode (word 0) = .ok (.decodeI16x2 lo hi) ∧ decode (word 1) = .ok (.decodeF32x2 lo hi) ∧
      decode (word 2) = .ok (.decodeF32x1 lo hi) ∧ decode (word 3) = .ok (.decodeU8x1 lo hi) ∧
      decode (word 4) = .ok (.decodeU64x1 lo hi) ∧
      ∀ tag ∈ [5, 6, 7], applyWord (word tag) s = .next { s with rsp := some ⟨.cmdErr, 0, false⟩ }) ∧
    let answer (width : Nat) : State :=
      if (hi.toNat : ℤ) - (lo.toNat : ℤ) = width ∧ hi.toNat ≤ s.payloadCount.toNat then
        { s with rsp := some ⟨.ok, BitVec.ofNat 64 (s.payload.readLE lo.toNat width), false⟩ }
      else { s with rsp := some ⟨.decodeErr, 0, false⟩ }
    exec (.decodeI16x2 lo hi) s = .next (answer 4) ∧
    exec (.decodeF32x2 lo hi) s = .next (answer 8) ∧
    exec (.decodeF32x1 lo hi) s = .next (answer 4) ∧
    exec (.decodeU8x1 lo hi) s = .next (answer 1) ∧
    exec (.decodeU64x1 lo hi) s = .next (answer 8)

/-- R149: the schema decode fails exactly when PAYLOAD_COUNT < 26, and then field 5 fails; below 8 all five fail; from 26 on
all five succeed, whatever the bytes. -/
def Obligations.SchemaDecodeFailsExactlyBelow26 : Prop :=
  ∀ s : State,
    (s.decodeSchema = none ↔ s.payloadCount.toNat < 26) ∧
    (s.payloadCount.toNat < 26 → s.fieldDecode .u8x1 25 26 = none) ∧
    (s.payloadCount.toNat < 8 →
      s.fieldDecode .u64x1 0 8 = none ∧ s.fieldDecode .f32x2 8 16 = none ∧ s.fieldDecode .f32x1 16 20 = none ∧
      s.fieldDecode .i16x2 20 24 = none ∧ s.fieldDecode .u8x1 25 26 = none) ∧
    (26 ≤ s.payloadCount.toNat →
      (s.fieldDecode .u64x1 0 8).isSome ∧ (s.fieldDecode .f32x2 8 16).isSome ∧ (s.fieldDecode .f32x1 16 20).isSome ∧
      (s.fieldDecode .i16x2 20 24).isSome ∧ (s.fieldDecode .u8x1 25 26).isSome)

/-- R142: a decoded word is the little-endian sum of its bytes, and of a two-lane tag lane 0 is the word of the first half of
the range and lane 1 that of the second. -/
def Obligations.LanesAreTheHalvesOfTheRange : Prop :=
  (∀ (s : State) (t : TypeTag) (lo hi : Nat) (v : Data), s.fieldDecode t lo hi = some v →
    v.toNat = ∑ k ∈ Finset.range (tagWidth t), (s.payload.read (lo + k)).toNat * 2 ^ (8 * k)) ∧
  (∀ (s : State) (lo : Nat) (v : Data), s.fieldDecode .f32x2 lo (lo + 8) = some v →
    s.fieldDecode .f32x1 lo (lo + 4) = some ((v.extractLsb' 0 32).setWidth 64) ∧
    s.fieldDecode .f32x1 (lo + 4) (lo + 8) = some ((v.extractLsb' 32 32).setWidth 64)) ∧
  (∀ (s : State) (lo : Nat) (v : Data), s.fieldDecode .i16x2 lo (lo + 4) = some v →
    (v.extractLsb' 0 16).toNat = s.payload.readLE lo 2 ∧
    (v.extractLsb' 16 16).toNat = s.payload.readLE (lo + 2) 2 ∧ v.extractLsb' 32 32 = 0)

/-! ### Errors, responses, priority (43_host_control.md, 60_exceptions.md) -/

/-- R210: RXERR, the word 0x20000000, sets TERR and answers TRANSPORT_ERR, in every state; nothing else changes. Every BYTE
after it is refused and changes nothing, RESET discards the partial frame, and READ and DECODE answer as before, with the
same code. -/
def Obligations.RxerrSetsTerr : Prop :=
  decode 0x20000000#32 = .ok .rxerr ∧
  (∀ s : State, exec .rxerr s = .next { s with terr := true, rsp := some ⟨.transportErr, 0, false⟩ }) ∧
  (∀ (b : Byte) (s : State), runInputs [.command 0x20000000#32, .command (encode (.byte b))] s =
    .next ({ s with terr := true, rsp := some ⟨.transportErr, 0, false⟩ },
      [⟨.transportErr, 0, false⟩, ⟨.transportErr, 0, false⟩])) ∧
  (∀ s : State, ∃ t, exec .reset { s with terr := true } = .next t ∧
    t.terr = false ∧ t.pstate = .idle ∧ t.payloadCount = 0) ∧
  (∀ (i : Instr) (s : State), ((∃ a, i = .read a) ∨ ∃ tag lo hi, i = Instr.decodeWith tag lo hi) →
    ∃ r r' : Response, r'.code = r.code ∧ (i ≠ .read 0x00 → r' = r) ∧
      exec i s = .next { s with rsp := some r } ∧
      exec i { s with terr := true } = .next { s with terr := true, rsp := some r' })

/-- R269 (with R111): after RXERR, bytes issued before a RESET, however many, are each answered TRANSPORT_ERR and lost. -/
def Obligations.BytesAfterALinkFailureAreLost : Prop :=
  ∀ (bs : List Byte) (s : State), ∃ t,
    runInputs (.command (encode .rxerr) :: byteInputs bs) s =
      .next (t, List.replicate (bs.length + 1) ⟨.transportErr, 0, false⟩) ∧
    t = { s with terr := true, rsp := t.rsp }

/-- R90 with the codes of R230: every operation gives one response; ev = 1 exactly for a BYTE that completes an accepted
frame; data is 0 for every error and for every operation but READ and DECODE; the codes are 0 to 5. -/
def Obligations.EveryOperationGivesOneResponse : Prop :=
  (∀ (i : Instr) (s t : State), exec i s = .next t →
    ∃ r : Response, t.rsp = some r ∧
      (r.ev = true ↔ ∃ b, i = .byte b ∧ s.completesFrame b) ∧
      (r.code ≠ .ok → r.data = 0) ∧
      ((∀ a, i ≠ .read a) → (∀ tag lo hi, i ≠ Instr.decodeWith tag lo hi) → r.data = 0)) ∧
  RspCode.ok.bits = 0 ∧ RspCode.accessErr.bits = 1 ∧ RspCode.decodeErr.bits = 2 ∧ RspCode.addrErr.bits = 3 ∧
  RspCode.cmdErr.bits = 4 ∧ RspCode.transportErr.bits = 5

/-- R236: the one response code of a command word, in the order of the rule; and a sentinel comes before the parser state's
own branch. -/
def Obligations.ResponseCodePriority : Prop :=
  ∀ (w : Word) (s t : State), applyWord w s = .next t →
    (∃ r : Response, t.rsp = some r ∧
      r.code = (match decode w with
        | .error _ => .cmdErr
        | .ok .reset => .ok
        | .ok .rxerr => .transportErr
        | .ok (.byte b) =>
          if s.terr = true then .transportErr
          else if b ≠ 0xFE#8 ∧ s.pstate = .gotCkb ∧ s.msgId = 100#8 ∧ s.payloadCount.toNat < 26 then .decodeErr
          else .ok
        | .ok (.read a) =>
          if (9 ≤ a.toNat ∧ a.toNat ≤ 15) ∨ 21 ≤ a.toNat then .addrErr
          else if 16 ≤ a.toNat ∧ s.valid = false then .accessErr
          else .ok
        | .ok (.decodeI16x2 lo hi) =>
          if hi.toNat = lo.toNat + 4 ∧ hi.toNat ≤ s.payloadCount.toNat then .ok else .decodeErr
        | .ok (.decodeF32x2 lo hi) =>
          if hi.toNat = lo.toNat + 8 ∧ hi.toNat ≤ s.payloadCount.toNat then .ok else .decodeErr
        | .ok (.decodeF32x1 lo hi) =>
          if hi.toNat = lo.toNat + 4 ∧ hi.toNat ≤ s.payloadCount.toNat then .ok else .decodeErr
        | .ok (.decodeU8x1 lo hi) =>
          if hi.toNat = lo.toNat + 1 ∧ hi.toNat ≤ s.payloadCount.toNat then .ok else .decodeErr
        | .ok (.decodeU64x1 lo hi) =>
          if hi.toNat = lo.toNat + 8 ∧ hi.toNat ≤ s.payloadCount.toNat then .ok else .decodeErr)) ∧
    (decode w = .ok (.byte 0xFE) → s.terr = false → t.pstate = .gotStx)

/-! ### Who writes what (10_state.md R53, 42_driver_integrator.md R180) -/

/-- R180 and the write columns of R53: BYTE never writes TERR, and writes the driver's state only through Accept; RXERR writes
TERR alone; READ, DECODE and an ILLEGAL word write nothing; no operation writes the constants. So ACC, PREV, the reading and the count
persist until Accept or RESET. -/
def Obligations.OnlyAcceptAndResetWriteTheDriver : Prop :=
  (∀ (i : Instr) (s t : State), exec i s = .next t →
    t.gapUs = s.gapUs ∧ t.inputs = s.inputs ∧
    (match i with
      | .byte b => t.terr = s.terr ∧
          (¬ s.completesFrame b → t.reading = s.reading ∧ t.prev = s.prev ∧ t.accX = s.accX ∧ t.accY = s.accY ∧
            t.sampleCount = s.sampleCount ∧ t.derr = s.derr)
      | .rxerr => t = { s with terr := t.terr, rsp := t.rsp }
      | .read _ => t = { s with rsp := t.rsp }
      | .decodeI16x2 _ _ => t = { s with rsp := t.rsp }
      | .decodeF32x2 _ _ => t = { s with rsp := t.rsp }
      | .decodeF32x1 _ _ => t = { s with rsp := t.rsp }
      | .decodeU8x1 _ _ => t = { s with rsp := t.rsp }
      | .decodeU64x1 _ _ => t = { s with rsp := t.rsp }
      | .reset => True)) ∧
  ∀ (w : Word) (s t : State), (∀ i, decode w ≠ .ok i) → applyWord w s = .next t → t = { s with rsp := t.rsp }

/-- R26, R32, R34, R36, R171, R173, R180 over steps: unless the step takes a reset, VALID, PREV_VALID and TERR are never
cleared and SAMPLE_COUNT never goes down; and VALID becomes 1 only in a step that completes a frame of at least 26 payload
bytes. (DERR is not among them: a good accept clears it, R172, stated in ShortFrameKeepsTheReading.) -/
def Obligations.ValidPrevValidTerrAndCountAreMonotoneBetweenResets : Prop :=
  ∀ s t : State, step s = .next t → (∀ i, s.inputs.head? = some i → i.isReset = false) →
    (s.valid = true → t.valid = true) ∧ (s.prevValid = true → t.prevValid = true) ∧ (s.terr = true → t.terr = true) ∧
    s.sampleCount.toNat ≤ t.sampleCount.toNat ∧
    (s.valid = false → t.valid = true → 26 ≤ s.payloadCount.toNat ∧
      ∃ b, s.inputs.head? = some (.command (encode (.byte b))) ∧ s.completesFrame b)

/-! ### Invariants (10_state.md R52) -/

/-- The invariants hold of the reset state. -/
def Obligations.InvariantsHoldAtReset : Prop := Inv State.reset

/-- R52: every step keeps the invariants. -/
def Obligations.StepKeepsTheInvariants : Prop :=
  ∀ s t : State, Inv s → step s = .next t → Inv t

/-- R242, R271: the block has no stuck state: under the invariants every step answers a next state, whatever input comes
next, an ILLEGAL word and none at all included. -/
def Obligations.BlockNeverSticks : Prop :=
  ∀ s : State, Inv s → ∃ t, step s = .next t

/-! ### Steps and runs (00_scope.md R10, 20_memory.md R70) -/

/-- A step takes the oldest presented input: a word that decodes runs its operation on the state without that input; a word
that does not is ILLEGAL; the pin resets. With nothing presented nothing changes (log entry 2). -/
def Obligations.StepRunsTheDecodedOperation : Prop :=
  (∀ (s : State) (w : Word) (rest : List Input) (i : Instr), s.inputs = .command w :: rest → decode w = .ok i →
    step s = exec i { s with inputs := rest }) ∧
  (∀ (s : State) (w : Word) (rest : List Input) (e : Illegal), s.inputs = .command w :: rest → decode w = .error e →
    step s = .next { s with inputs := rest, rsp := some ⟨.cmdErr, 0, false⟩ }) ∧
  (∀ (s : State) (rest : List Input), s.inputs = .resetPin :: rest →
    step s = applyInput .resetPin { s with inputs := rest }) ∧
  (∀ s : State, s.inputs = [] → step s = .next { s with rsp := none })

/-- Steps and runs agree: as many steps as there are inputs in front of the queue do what the run of those inputs does, one
after another, and leave the rest of the queue (R70: totally ordered, each sees the state left by all earlier ones). -/
def Obligations.StepsAreTheRunOfTheQueue : Prop :=
  ∀ (is rest : List Input) (s : State), s.inputs = is ++ rest →
    Host.Core.run Sys2Proof.core is.length s =
      (match runInputs is { s with inputs := rest } with
        | .next (t, _) => .next t
        | .fault f => .fault f
        | .refused r => .refused r)

/-- R237: inputs of one clock edge run in the order RESET, RXERR, BYTE, then the host's READ or DECODE; so a READ issued with
a byte that completes a frame sees the frame already accepted. (Derived, not R237's in full: that
one edge may carry both RXERR and a BYTE, where R270 allows one operation per source, is the model's choice, log entry 12.) -/
def Obligations.SameStepOrder : Prop :=
  ∀ (rx : Option Byte) (rxErr : Bool) (w : Word) (s : State),
    let transport : List Input :=
      (if rxErr then [.command 0x20000000#32] else []) ++ byteInputs rx.toList
    (decode w = .ok .reset →
      clockEdge { rst := false, rx := rx, rxErr := rxErr, cmd := some w } s = runInputs (.command w :: transport) s) ∧
    ((∃ a, decode w = .ok (.read a)) ∨ (∃ tag lo hi, decode w = .ok (Instr.decodeWith tag lo hi)) →
      clockEdge { rst := false, rx := rx, rxErr := rxErr, cmd := some w } s = runInputs (transport ++ [.command w]) s) ∧
    clockEdge { rst := false, rx := rx, rxErr := rxErr, cmd := none } s = runInputs transport s

/-! ### Frames (40_frame_parser.md R123-R125, 41_field_decoder.md R150, 70_reset_and_hazards.md R265) -/

/-- R123: a whole frame with no 0xFE after its sentinel takes L + 8 BYTEs from any parser state; a target frame's event is on
the last and leaves IDLE, a non-target frame gives no event and leaves GOT_CKB. The payload buffer then holds the payload. -/
def Obligations.WholeFrameTakesItsLengthPlusEightBytes : Prop :=
  ∀ (s : State) (seq sys comp msgid : Byte) (payload : List Byte) (cka ckb : Byte),
    s.terr = false → s.payload.wf → payload.length ≤ 255 →
    (∀ b ∈ (frameBytes seq sys comp msgid payload cka ckb).tail, b ≠ 0xFE#8) →
    ∃ t rs, feed (frameBytes seq sys comp msgid payload cka ckb) s = .next (t, rs) ∧
      rs.length = payload.length + 8 ∧
      t.payloadCount.toNat = payload.length ∧ t.declLen.toNat = payload.length ∧ t.msgId = msgid ∧
      (∀ k (h : k < payload.length), t.payload.read k = payload[k]) ∧
      (msgid = 100#8 → t.pstate = .idle ∧
        rs = List.replicate (payload.length + 7) okRsp ++
          [⟨if 26 ≤ payload.length then .ok else .decodeErr, 0, true⟩]) ∧
      (msgid ≠ 100#8 → t.pstate = .gotCkb ∧ rs = List.replicate (payload.length + 8) okRsp)

/-- R125: after a sentinel the parser forgets: two runs from any two states, fed the sentinel and the same bytes, give the same
responses and the same parser state; DECL_LEN agrees once a LEN byte came, MSG_ID once a MSGID byte came; and each driver
element differs only as far as it (and what it is computed from) already differed. -/
def Obligations.SentinelResynchronises : Prop :=
  ∀ (s₁ s₂ : State) (w : List Byte), s₁.terr = false → s₂.terr = false → s₁.payload.wf → s₂.payload.wf →
    ∃ t₁ t₂ rs, feed (0xFE#8 :: w) s₁ = .next (t₁, rs) ∧ feed (0xFE#8 :: w) s₂ = .next (t₂, rs) ∧
      t₁.pstate = t₂.pstate ∧ t₁.payloadCount = t₂.payloadCount ∧
      (∀ a < t₁.payloadCount.toNat, t₁.payload.read a = t₂.payload.read a) ∧
      ((∃ len, len ≠ 0xFE#8 ∧ [0xFE#8, len] <:+: 0xFE#8 :: w) → t₁.declLen = t₂.declLen) ∧
      ((∃ len seq sys comp mid, 0xFE#8 ∉ [len, seq, sys, comp, mid] ∧
        [0xFE#8, len, seq, sys, comp, mid] <:+: 0xFE#8 :: w) → t₁.msgId = t₂.msgId) ∧
      (s₁.reading = s₂.reading → t₁.reading = t₂.reading) ∧
      (s₁.sampleCount = s₂.sampleCount → t₁.sampleCount = t₂.sampleCount) ∧
      (s₁.derr = s₂.derr → t₁.derr = t₂.derr) ∧
      (s₁.prev = s₂.prev → t₁.prev = t₂.prev) ∧
      (s₁.prev = s₂.prev → s₁.gapUs = s₂.gapUs → s₁.accX = s₂.accX → t₁.accX = t₂.accX) ∧
      (s₁.prev = s₂.prev → s₁.gapUs = s₂.gapUs → s₁.accY = s₂.accY → t₁.accY = t₂.accY)

/-- R150: the round trip: field values laid out little-endian in a target frame with no 0xFE after its sentinel are, after the
frame, exactly the patterns in the reading registers. -/
def Obligations.EncodedReadingRoundTrips : Prop :=
  ∀ (s : State) (seq sys comp cka ckb : Byte) (time : BitVec 64) (flowX flowY dist : BitVec 32)
    (rawX rawY : BitVec 16) (byte24 qual : Byte) (rest : List Byte),
    s.terr = false → s.payload.wf → 26 + rest.length ≤ 255 →
    (∀ b ∈ (frameBytes seq sys comp 100 (schemaPayload time flowX flowY dist rawX rawY byte24 qual rest) cka ckb).tail,
      b ≠ 0xFE#8) →
    ∃ t rs,
      feed (frameBytes seq sys comp 100 (schemaPayload time flowX flowY dist rawX rawY byte24 qual rest) cka ckb) s =
        .next (t, rs) ∧
      t.reading = (true, time, flowX, flowY, dist, rawX, rawY, qual)

/-- R265: if no reset comes between two reads of SAMPLE_COUNT and the two are equal and below 2^64 - 1, no accept ran in
between, whatever inputs came, and the reading is the same throughout. -/
def Obligations.EqualCountsMeanOneFrame : Prop :=
  ∀ (is : List Input) (s t : State) (rs : List Response),
    (∀ i ∈ is, i.isReset = false) → runInputs is s = .next (t, rs) →
    t.sampleCount = s.sampleCount → s.sampleCount.toNat < 2 ^ 64 - 1 →
    (∀ r ∈ rs, r.ev = false) ∧
    (∀ pre suf, is = pre ++ suf → ∃ u rs', runInputs pre s = .next (u, rs') ∧ u.reading = s.reading)

/-! ### The floating-point primitives (42_driver_integrator.md R179) -/

/-- R179: f32_to_f64 is exact for every non-NaN pattern, subnormals, zeros and infinities included, and keeps the sign; a NaN
gives the canonical NaN. -/
def Obligations.WideningToBinary64IsExact : Prop :=
  ∀ x : BitVec 32,
    (unpack32 x = .nan → f32ToF64 x = 0x7FF8000000000000#64) ∧
    (∀ neg, unpack32 x = .inf neg → unpack64 (f32ToF64 x) = .inf neg) ∧
    (∀ v, (unpack32 x).toRat = some v →
      (unpack64 (f32ToF64 x)).toRat = some v ∧ (f32ToF64 x).getLsbD 63 = x.getLsbD 31)

/-- R179: i_to_f64 rounds to nearest, ties to even, and is exact for |n| ≤ 2^53. (That integers from the overflow bound on
give an infinity is IEEE 754's, PRESUMED, log entry 10; R179 needs |n| < 2^65 alone.) -/
def Obligations.IntegerToBinary64IsRounded : Prop :=
  (∀ n : ℤ, RoundedNearestEven (n : ℚ) (intToF64 n)) ∧
  (∀ n : ℤ, |n| ≤ 2 ^ 53 → (unpack64 (intToF64 n)).toRat = some (n : ℚ))

/-- R179: f64_mul of two finite numbers is the exact product rounded by roundTiesToEven. By IEEE 754 (PRESUMED, log entry 10):
the overflow bound, the exclusive-or of the signs, and that an infinity times an infinity or a nonzero number is an infinity
with the exclusive-or of the signs. (The products that are NaN: NaNResultsAreCanonical.) -/
def Obligations.MultiplicationIsCorrectlyRounded : Prop :=
  (∀ (a b : BitVec 64) (x y : ℚ), (unpack64 a).toRat = some x → (unpack64 b).toRat = some y →
    RoundedNearestEven (x * y) (f64Mul a b) ∧
    (f64Mul a b).getLsbD 63 = (a.getLsbD 63 ^^ b.getLsbD 63)) ∧
  (∀ (a b : BitVec 64) (s t : Bool), unpack64 a = .inf s → unpack64 b = .inf t →
    unpack64 (f64Mul a b) = .inf (s ^^ t)) ∧
  (∀ (a b : BitVec 64) (s : Bool) (y : ℚ), unpack64 a = .inf s → (unpack64 b).toRat = some y → y ≠ 0 →
    unpack64 (f64Mul a b) = .inf (s ^^ b.getLsbD 63) ∧ unpack64 (f64Mul b a) = .inf (s ^^ b.getLsbD 63))

/-- R179: f64_div of a finite number by a finite nonzero number is the exact quotient rounded by roundTiesToEven. By IEEE 754
(PRESUMED, log entry 10): the overflow bound, the exclusive-or of the signs, that an infinity by a finite number and a nonzero
number by zero are infinities, and a finite number by an infinity a zero, each with the exclusive-or of the signs. (The
quotients that are NaN: NaNResultsAreCanonical.) -/
def Obligations.DivisionIsCorrectlyRounded : Prop :=
  (∀ (a b : BitVec 64) (x y : ℚ), (unpack64 a).toRat = some x → (unpack64 b).toRat = some y → y ≠ 0 →
    RoundedNearestEven (x / y) (f64Div a b) ∧
    (f64Div a b).getLsbD 63 = (a.getLsbD 63 ^^ b.getLsbD 63)) ∧
  (∀ (a b : BitVec 64) (s : Bool) (y : ℚ), unpack64 a = .inf s → (unpack64 b).toRat = some y →
    unpack64 (f64Div a b) = .inf (s ^^ b.getLsbD 63)) ∧
  (∀ (a b : BitVec 64) (x : ℚ) (t : Bool), (unpack64 a).toRat = some x → unpack64 b = .inf t →
    f64Div a b = if a.getLsbD 63 ^^ t then 0x8000000000000000#64 else 0x0000000000000000#64) ∧
  (∀ (a b : BitVec 64) (x : ℚ), (unpack64 a).toRat = some x → x ≠ 0 → (unpack64 b).toRat = some 0 →
    unpack64 (f64Div a b) = .inf (a.getLsbD 63 ^^ b.getLsbD 63))

/-- R179: f64_add of two finite numbers is the exact sum rounded by roundTiesToEven. By IEEE 754 (PRESUMED, log entry 10): the
overflow bound, that an exact zero is -0 only when both operands are negative, and that an infinity plus a finite number or an
infinity of the same sign, in either order, is that infinity. (The sum that is NaN: NaNResultsAreCanonical.) -/
def Obligations.AdditionIsCorrectlyRounded : Prop :=
  (∀ (a b : BitVec 64) (x y : ℚ), (unpack64 a).toRat = some x → (unpack64 b).toRat = some y →
    RoundedNearestEven (x + y) (f64Add a b) ∧
    (x + y = 0 → f64Add a b = if a.getLsbD 63 && b.getLsbD 63 then 0x8000000000000000#64 else 0x0000000000000000#64)) ∧
  (∀ (a b : BitVec 64) (s : Bool) (y : ℚ), unpack64 a = .inf s → (unpack64 b).toRat = some y →
    unpack64 (f64Add a b) = .inf s ∧ unpack64 (f64Add b a) = .inf s) ∧
  (∀ (a b : BitVec 64) (s : Bool), unpack64 a = .inf s → unpack64 b = .inf s → unpack64 (f64Add a b) = .inf s)

/-- R179: every NaN result is the canonical quiet NaN, and a NaN operand, ∞ · 0 and ∞ + (-∞) give it. By IEEE 754 (PRESUMED,
log entry 10), so do 0 / 0 and ∞ / ∞, and no integer converts to NaN. -/
def Obligations.NaNResultsAreCanonical : Prop :=
  (∀ x, unpack64 (f32ToF64 x) = .nan → f32ToF64 x = 0x7FF8000000000000#64) ∧
  (∀ n, unpack64 (intToF64 n) ≠ .nan) ∧
  (∀ a b, unpack64 (f64Mul a b) = .nan → f64Mul a b = 0x7FF8000000000000#64) ∧
  (∀ a b, unpack64 (f64Div a b) = .nan → f64Div a b = 0x7FF8000000000000#64) ∧
  (∀ a b, unpack64 (f64Add a b) = .nan → f64Add a b = 0x7FF8000000000000#64) ∧
  (∀ a b, unpack64 a = .nan ∨ unpack64 b = .nan →
    unpack64 (f64Mul a b) = .nan ∧ unpack64 (f64Div a b) = .nan ∧ unpack64 (f64Add a b) = .nan) ∧
  (∀ a b neg, unpack64 a = .inf neg → (unpack64 b).toRat = some 0 →
    unpack64 (f64Mul a b) = .nan ∧ unpack64 (f64Mul b a) = .nan) ∧
  (∀ a b neg, unpack64 a = .inf neg → unpack64 b = .inf (!neg) → unpack64 (f64Add a b) = .nan) ∧
  (∀ a b, (unpack64 a).toRat = some 0 → (unpack64 b).toRat = some 0 → unpack64 (f64Div a b) = .nan) ∧
  (∀ a b neg neg', unpack64 a = .inf neg → unpack64 b = .inf neg' → unpack64 (f64Div a b) = .nan)

/-- R179: once ACC_X or ACC_Y is NaN, it stays NaN through every step that does not reset. -/
def Obligations.NaNAccumulatorStaysNaN : Prop :=
  ∀ s t : State, step s = .next t → (∀ i, s.inputs.head? = some i → i.isReset = false) →
    (unpack64 s.accX = .nan → unpack64 t.accX = .nan) ∧ (unpack64 s.accY = .nan → unpack64 t.accY = .nan)
end

