-- ==== Sys2Proof/Laws/Decode.lean ====
section
/-! SUPPORT. The fields of an assembled command word, and a word from its fields: what the decoder and the encoder share
(30_encoding.md R85). -/

namespace Sys2Proof

@[simp] theorem opField_assemble (op : BitVec 4) (tag : BitVec 3) (hi lo : Byte) :
    opField (assemble op tag hi lo) = op := by
  apply BitVec.eq_of_getLsbD_eq
  intro k hk
  simp only [opField, assemble, BitVec.getLsbD_extractLsb', BitVec.getLsbD_append]
  interval_cases k <;> simp

@[simp] theorem rsvField_assemble (op : BitVec 4) (tag : BitVec 3) (hi lo : Byte) :
    rsvField (assemble op tag hi lo) = 0 := by
  apply BitVec.eq_of_getLsbD_eq
  intro k hk
  simp only [rsvField, assemble, BitVec.getLsbD_extractLsb', BitVec.getLsbD_append]
  interval_cases k <;> simp

@[simp] theorem tagField_assemble (op : BitVec 4) (tag : BitVec 3) (hi lo : Byte) :
    tagField (assemble op tag hi lo) = tag := by
  apply BitVec.eq_of_getLsbD_eq
  intro k hk
  simp only [tagField, assemble, BitVec.getLsbD_extractLsb', BitVec.getLsbD_append]
  interval_cases k <;> simp

@[simp] theorem hiField_assemble (op : BitVec 4) (tag : BitVec 3) (hi lo : Byte) :
    hiField (assemble op tag hi lo) = hi := by
  apply BitVec.eq_of_getLsbD_eq
  intro k hk
  simp only [hiField, assemble, BitVec.getLsbD_extractLsb', BitVec.getLsbD_append]
  interval_cases k <;> simp

@[simp] theorem loField_assemble (op : BitVec 4) (tag : BitVec 3) (hi lo : Byte) :
    loField (assemble op tag hi lo) = lo := by
  apply BitVec.eq_of_getLsbD_eq
  intro k hk
  simp only [loField, assemble, BitVec.getLsbD_extractLsb', BitVec.getLsbD_append]
  interval_cases k <;> simp

/-- A word whose RSV_HI is 0 is assembled from its other fields. -/
theorem assemble_fields (w : Word) (h : rsvField w = 0) :
    assemble (opField w) (tagField w) (hiField w) (loField w) = w := by
  have reserved : ∀ k, k < 9 → w.getLsbD (19 + k) = false := fun k hk => by
    have := congrArg (fun x => x.getLsbD k) h
    simpa [rsvField, BitVec.getLsbD_extractLsb', hk] using this
  apply BitVec.eq_of_getLsbD_eq
  intro k hk
  simp only [opField, tagField, hiField, loField, assemble, BitVec.getLsbD_extractLsb', BitVec.getLsbD_append]
  by_cases hr : 19 ≤ k ∧ k < 28
  · obtain ⟨h1, h2⟩ := hr
    have := reserved (k - 19) (by omega)
    rw [show 19 + (k - 19) = k by omega] at this
    rw [this]
    interval_cases k <;> simp
  · interval_cases k <;> simp at hr ⊢

/-- A tag and its code name each other (41_field_decoder.md R140). -/
theorem TypeTag.ofCode_eq_some_iff (c : BitVec 3) (t : TypeTag) : TypeTag.ofCode c = some t ↔ c = t.code := by
  cases t <;> revert c <;> decide

/-- The codes without a tag are 5 to 7 (41_field_decoder.md R140). -/
theorem TypeTag.ofCode_eq_none_iff (c : BitVec 3) : TypeTag.ofCode c = none ↔ 5 ≤ c.toNat := by
  revert c; decide

/-- A word masked to 0, bit by bit. -/
theorem and_eq_zero_iff (w m : Word) : w &&& m = 0#32 ↔ ∀ k, k < 32 → m.getLsbD k = true → w.getLsbD k = false := by
  constructor
  · intro h k _ hm
    have := congrArg (fun x => x.getLsbD k) h
    simpa [hm] using this
  · intro h
    apply BitVec.eq_of_getLsbD_eq
    intro k hk
    have := h k hk
    cases hm : m.getLsbD k <;> simp_all

/-- A field equal to 0, bit by bit. -/
theorem field_eq_zero_iff (w : Word) (a n : Nat) :
    w.extractLsb' a n = 0#n ↔ ∀ k, a ≤ k → k < a + n → w.getLsbD k = false := by
  constructor
  · intro h k h1 h2
    have := congrArg (fun x => x.getLsbD (k - a)) h
    simpa [BitVec.getLsbD_extractLsb', show k - a < n by omega, show a + (k - a) = k by omega] using this
  · intro h
    apply BitVec.eq_of_getLsbD_eq
    intro k hk
    simp [hk, h (a + k) (by omega) (by omega)]

/-- The must-be-zero masks of WellFormed, as the fields of R85. -/
theorem reserved_masks (w : Word) :
    (w &&& 0x0FFFFF00#32 = 0#32 ↔ rsvField w = 0 ∧ tagField w = 0 ∧ hiField w = 0) ∧
    (w &&& 0x0FFFFFFF#32 = 0#32 ↔ rsvField w = 0 ∧ tagField w = 0 ∧ hiField w = 0 ∧ loField w = 0) ∧
    (w &&& 0x0FF80000#32 = 0#32 ↔ rsvField w = 0) := by
  have m1 : ∀ k, k < 32 → ((0x0FFFFF00#32).getLsbD k = true ↔ 8 ≤ k ∧ k < 28) := by decide
  have m2 : ∀ k, k < 32 → ((0x0FFFFFFF#32).getLsbD k = true ↔ k < 28) := by decide
  have m3 : ∀ k, k < 32 → ((0x0FF80000#32).getLsbD k = true ↔ 19 ≤ k ∧ k < 28) := by decide
  simp only [and_eq_zero_iff, rsvField, tagField, hiField, loField]
  have f1 := field_eq_zero_iff w 19 9
  have f2 := field_eq_zero_iff w 16 3
  have f3 := field_eq_zero_iff w 8 8
  have f4 := field_eq_zero_iff w 0 8
  refine ⟨?_, ?_, ?_⟩
  · constructor
    · intro h
      exact ⟨f1.mpr fun k _ _ => h k (by omega) ((m1 k (by omega)).mpr (by omega)),
        f2.mpr fun k _ _ => h k (by omega) ((m1 k (by omega)).mpr (by omega)),
        f3.mpr fun k _ _ => h k (by omega) ((m1 k (by omega)).mpr (by omega))⟩
    · rintro ⟨h1, h2, h3⟩ k hk hm
      have := (m1 k hk).mp hm
      by_cases k < 16
      · exact f3.mp h3 k (by omega) (by omega)
      · by_cases k < 19
        · exact f2.mp h2 k (by omega) (by omega)
        · exact f1.mp h1 k (by omega) (by omega)
  · constructor
    · intro h
      exact ⟨f1.mpr fun k _ _ => h k (by omega) ((m2 k (by omega)).mpr (by omega)),
        f2.mpr fun k _ _ => h k (by omega) ((m2 k (by omega)).mpr (by omega)),
        f3.mpr fun k _ _ => h k (by omega) ((m2 k (by omega)).mpr (by omega)),
        f4.mpr fun k _ _ => h k (by omega) ((m2 k (by omega)).mpr (by omega))⟩
    · rintro ⟨h1, h2, h3, h4⟩ k hk hm
      have := (m2 k hk).mp hm
      by_cases k < 8
      · exact f4.mp h4 k (by omega) (by omega)
      · by_cases k < 16
        · exact f3.mp h3 k (by omega) (by omega)
        · by_cases k < 19
          · exact f2.mp h2 k (by omega) (by omega)
          · exact f1.mp h1 k (by omega) (by omega)
  · constructor
    · intro h
      exact f1.mpr fun k _ _ => h k (by omega) ((m3 k (by omega)).mpr (by omega))
    · intro h1 k hk hm
      exact f1.mp h1 k ((m3 k hk).mp hm).1 (by have := (m3 k hk).mp hm; omega)

/-- The well-formed command words are exactly those that decode to an operation (R88, R91). -/
theorem legalWord_iff_decodes (w : Word) : legalWord w = true ↔ ∃ i, decode w = .ok i := by
  have hop : (w >>> 28).toNat = (opField w).toNat := by
    have := w.isLt
    simp [opField, Nat.shiftRight_eq_div_pow]
    omega
  have htag : (w >>> 16).toNat % 8 = (tagField w).toNat := by
    simp [tagField, Nat.shiftRight_eq_div_pow]
  obtain ⟨r1, r2, r3⟩ := reserved_masks w
  have t := TypeTag.ofCode_eq_none_iff (tagField w)
  have ops : ∀ op : BitVec 4, op = 1 ∨ op = 2 ∨ op = 3 ∨ op = 4 ∨ op = 15 ∨
      (op ≠ 1 ∧ op ≠ 2 ∧ op ≠ 3 ∧ op ≠ 4 ∧ op ≠ 15 ∧
        op.toNat ≠ 1 ∧ op.toNat ≠ 2 ∧ op.toNat ≠ 3 ∧ op.toNat ≠ 4 ∧ op.toNat ≠ 15) := by decide
  unfold legalWord opAssigned reservedBitsClear tagAssigned decode
  simp only [hop, htag]
  rcases ops (opField w) with h | h | h | h | h | h
  · simp [h, r1]
    split <;> simp_all
  · simp [h, r2]
    split <;> simp_all
  · simp [h, r1]
    split <;> simp_all
  · simp only [h, decodeDecode]
    by_cases hr : rsvField w = 0
    · have := r3.mpr hr
      cases hc : TypeTag.ofCode (tagField w) with
      | none => simp_all; omega
      | some x => simp_all; omega
    · have : ¬ w &&& 0x0FF80000#32 = 0#32 := fun hz => hr (r3.mp hz)
      simp_all
  · simp [h, r2]
    split <;> simp_all
  · obtain ⟨h1, h2, h3, h4, h5, n1, n2, n3, n4, n5⟩ := h
    rw [if_neg h1, if_neg h2, if_neg h3, if_neg h4, if_neg h5]
    simp [n1, n2, n3, n4, n5]

end Sys2Proof
end

