-- ==== Sys2Proof/Laws/Memory.lean ====
section
/-! SUPPORT. The laws of the payload space: reading back a write, every other address unchanged, the canonical form
kept, and the little-endian read as a function of the bytes it covers. -/

namespace Sys2Proof.Machine

/-- An address below every listed one reads as unwritten. -/
theorem Memory.read_of_lt {m : Memory} {a : Nat} (h : ∀ c ∈ m, a < c.1) : m.read a = Memory.unwritten := by
  induction m with
  | nil => rfl
  | cons c m ih =>
    have hc := h c (by simp)
    simp only [Memory.read]
    rw [if_neg (by omega)]
    exact ih fun d hd => h d (by simp [hd])

/-- A write is read back, and every other address reads as before. -/
theorem Memory.read_write {m : Memory} (h : m.Pairwise (fun c d => c.1 < d.1)) (a x : Nat) (v : Byte) :
    (m.write a v).read x = if x = a then v else m.read x := by
  induction m with
  | nil =>
    by_cases hv : v = Memory.unwritten <;> by_cases hx : x = a <;> simp [Memory.write, Memory.read, hv, hx]
  | cons c m ih =>
    obtain ⟨b, u⟩ := c
    obtain ⟨hb, hm⟩ := List.pairwise_cons.mp h
    have below : a ≤ b → Memory.read m a = Memory.unwritten := fun hab =>
      Memory.read_of_lt fun d hd => by have := hb d hd; simp only at this; omega
    simp only [Memory.write]
    split
    · by_cases hx : x = a
      · subst hx
        by_cases hv : v = Memory.unwritten
        · have := below (by omega)
          rw [if_pos hv, if_pos rfl, Memory.read, if_neg (by omega), this, hv]
        · simp [Memory.read, hv]
      · by_cases hv : v = Memory.unwritten <;> simp [Memory.read, hv, hx]
    · split
      · subst a
        by_cases hx : x = b
        · by_cases hv : v = Memory.unwritten
          · simp [hv, hx, below (Nat.le_refl b)]
          · simp [Memory.read, hv, hx]
        · by_cases hv : v = Memory.unwritten <;> simp [Memory.read, hv, hx]
      · simp only [Memory.read, ih hm]
        by_cases hx : x = a
        · subst hx; simp; omega
        · simp [hx]

/-- Every cell after a write is the written one or was there before. -/
theorem Memory.mem_write {m : Memory} {a : Nat} {v : Byte} {c : Host.Cell} (h : c ∈ m.write a v) :
    (c = (a, v) ∧ v ≠ Memory.unwritten) ∨ c ∈ m := by
  induction m with
  | nil =>
    by_cases hv : v = Memory.unwritten <;> simp_all [Memory.write]
  | cons d m ih =>
    obtain ⟨b, u⟩ := d
    simp only [Memory.write] at h
    split at h
    · split at h <;> simp_all
    · split at h
      · split at h <;> simp_all
        rcases h with h | h <;> simp_all
      · rcases List.mem_cons.mp h with h | h
        · simp [h]
        · rcases ih h with h | h <;> simp [h]

/-- A write inside the payload space keeps the canonical form. -/
theorem Memory.write_wf {m : Memory} (h : m.wf) {a : Nat} (ha : a < Config.payloadCap) (v : Byte) :
    (m.write a v).wf := by
  refine ⟨?_, fun c hc => ?_⟩
  · have hs := h.1
    clear h
    induction m with
    | nil => by_cases hv : v = Memory.unwritten <;> simp [Memory.write, hv]
    | cons c m ih =>
      obtain ⟨b, u⟩ := c
      obtain ⟨hb, hm⟩ := List.pairwise_cons.mp hs
      have hb' : ∀ d ∈ m, b < d.1 := hb
      simp only [Memory.write]
      split
      · split
        · exact hs
        · refine List.pairwise_cons.mpr ⟨fun d hd => ?_, hs⟩
          rcases List.mem_cons.mp hd with rfl | hd
          · assumption
          · have := hb' d hd
            simp only
            omega
      · split
        · split
          · exact hm
          · exact List.pairwise_cons.mpr ⟨hb, hm⟩
        · refine List.pairwise_cons.mpr ⟨fun d hd => ?_, ih hm⟩
          rcases Memory.mem_write hd with ⟨rfl, _⟩ | hd
          · simp only
            omega
          · exact hb' d hd
  · rcases Memory.mem_write hc with ⟨rfl, hv⟩ | hc
    · exact ⟨ha, hv⟩
    · exact h.2 c hc

/-- The empty payload space is canonical. -/
theorem Memory.nil_wf : Memory.wf [] := ⟨List.Pairwise.nil, by simp⟩

/-- A little-endian read depends on the bytes it covers alone. -/
theorem Memory.readLE_congr {m m' : Memory} {a n : Nat} (h : ∀ k < n, m.read (a + k) = m'.read (a + k)) :
    m.readLE a n = m'.readLE a n := by
  induction n generalizing a with
  | zero => rfl
  | succ n ih =>
    have h0 := h 0 (by omega)
    simp only [Nat.add_zero] at h0
    simp only [Memory.readLE, h0]
    rw [ih fun k hk => ?_]
    have := h (k + 1) (by omega)
    rwa [Nat.add_assoc, Nat.add_comm 1 k]

/-- A little-endian read of n bytes is below 2^(8n). -/
theorem Memory.readLE_lt (m : Memory) (a n : Nat) : m.readLE a n < 2 ^ (8 * n) := by
  induction n generalizing a with
  | zero => simp [Memory.readLE]
  | succ n ih =>
    have := ih (a + 1)
    have hb := (m.read a).isLt
    simp only [Memory.readLE, Nat.mul_add, Nat.pow_add]
    omega

/-- A little-endian read cut in two: the lower part is the lower bytes, the upper part follows above it. -/
theorem Memory.readLE_add (m : Memory) (a n k : Nat) :
    m.readLE a (n + k) = m.readLE a n + 2 ^ (8 * n) * m.readLE (a + n) k := by
  induction n generalizing a with
  | zero => simp [Memory.readLE]
  | succ n ih =>
    rw [Nat.add_right_comm]
    simp only [Memory.readLE, ih, Nat.mul_add, Nat.pow_add]
    rw [Nat.add_assoc a 1 n, Nat.add_comm 1 n]
    ring

/-- The low lane of a little-endian word is the word of its lower bytes (41_field_decoder.md R142). -/
theorem Memory.readLE_low (m : Memory) (a n k : Nat) (h : 8 * n + 8 * k ≤ 64) :
    (BitVec.ofNat 64 (m.readLE a (n + k))).extractLsb' 0 (8 * n) = BitVec.ofNat (8 * n) (m.readLE a n) := by
  apply BitVec.eq_of_toNat_eq
  simp only [BitVec.extractLsb'_toNat, BitVec.toNat_ofNat, Nat.shiftRight_zero]
  rw [Nat.mod_mod_of_dvd _ (Nat.pow_dvd_pow 2 (by omega)), Memory.readLE_add, Nat.add_mul_mod_self_left]

/-- The high lane of a little-endian word is the word of its upper bytes (41_field_decoder.md R142). -/
theorem Memory.readLE_high (m : Memory) (a n k : Nat) (h : 8 * n + 8 * k ≤ 64) :
    (BitVec.ofNat 64 (m.readLE a (n + k))).extractLsb' (8 * n) (8 * k) = BitVec.ofNat (8 * k) (m.readLE (a + n) k) := by
  apply BitVec.eq_of_toNat_eq
  have hlt := lt_of_lt_of_le (m.readLE_lt a (n + k)) (Nat.pow_le_pow_right (n := 2) (by norm_num) (by omega : _ ≤ 64))
  simp only [BitVec.extractLsb'_toNat, BitVec.toNat_ofNat]
  rw [Nat.mod_eq_of_lt hlt, Memory.readLE_add, Nat.shiftRight_eq_div_pow, Nat.add_mul_div_left _ _ (by positivity),
    Nat.div_eq_of_lt (m.readLE_lt a n), Nat.zero_add]

end Sys2Proof.Machine
end

