-- ==== Sys2Proof/Laws/State.lean ====
section
/-! SUPPORT. One lemma per field per update of `State`. -/

namespace Sys2Proof.Machine

@[simp] theorem State.setPstate_pstate (s : State) (p : PState) : (s.setPstate p).pstate = p := rfl
@[simp] theorem State.setPstate_declLen (s : State) (p : PState) : (s.setPstate p).declLen = s.declLen := rfl
@[simp] theorem State.setPstate_msgId (s : State) (p : PState) : (s.setPstate p).msgId = s.msgId := rfl
@[simp] theorem State.setPstate_payloadCount (s : State) (p : PState) : (s.setPstate p).payloadCount = s.payloadCount := rfl
@[simp] theorem State.setPstate_payload (s : State) (p : PState) : (s.setPstate p).payload = s.payload := rfl
@[simp] theorem State.setPstate_valid (s : State) (p : PState) : (s.setPstate p).valid = s.valid := rfl
@[simp] theorem State.setPstate_timeUs (s : State) (p : PState) : (s.setPstate p).timeUs = s.timeUs := rfl
@[simp] theorem State.setPstate_flowCompX (s : State) (p : PState) : (s.setPstate p).flowCompX = s.flowCompX := rfl
@[simp] theorem State.setPstate_flowCompY (s : State) (p : PState) : (s.setPstate p).flowCompY = s.flowCompY := rfl
@[simp] theorem State.setPstate_groundDistance (s : State) (p : PState) : (s.setPstate p).groundDistance = s.groundDistance := rfl
@[simp] theorem State.setPstate_rawFlowX (s : State) (p : PState) : (s.setPstate p).rawFlowX = s.rawFlowX := rfl
@[simp] theorem State.setPstate_rawFlowY (s : State) (p : PState) : (s.setPstate p).rawFlowY = s.rawFlowY := rfl
@[simp] theorem State.setPstate_quality (s : State) (p : PState) : (s.setPstate p).quality = s.quality := rfl
@[simp] theorem State.setPstate_prevValid (s : State) (p : PState) : (s.setPstate p).prevValid = s.prevValid := rfl
@[simp] theorem State.setPstate_prevTimeUs (s : State) (p : PState) : (s.setPstate p).prevTimeUs = s.prevTimeUs := rfl
@[simp] theorem State.setPstate_accX (s : State) (p : PState) : (s.setPstate p).accX = s.accX := rfl
@[simp] theorem State.setPstate_accY (s : State) (p : PState) : (s.setPstate p).accY = s.accY := rfl
@[simp] theorem State.setPstate_sampleCount (s : State) (p : PState) : (s.setPstate p).sampleCount = s.sampleCount := rfl
@[simp] theorem State.setPstate_derr (s : State) (p : PState) : (s.setPstate p).derr = s.derr := rfl
@[simp] theorem State.setPstate_terr (s : State) (p : PState) : (s.setPstate p).terr = s.terr := rfl
@[simp] theorem State.setPstate_gapUs (s : State) (p : PState) : (s.setPstate p).gapUs = s.gapUs := rfl
@[simp] theorem State.setPstate_inputs (s : State) (p : PState) : (s.setPstate p).inputs = s.inputs := rfl
@[simp] theorem State.setPstate_rsp (s : State) (p : PState) : (s.setPstate p).rsp = s.rsp := rfl

@[simp] theorem State.setDeclLen_pstate (s : State) (b : Byte) : (s.setDeclLen b).pstate = s.pstate := rfl
@[simp] theorem State.setDeclLen_declLen (s : State) (b : Byte) : (s.setDeclLen b).declLen = b := rfl
@[simp] theorem State.setDeclLen_msgId (s : State) (b : Byte) : (s.setDeclLen b).msgId = s.msgId := rfl
@[simp] theorem State.setDeclLen_payloadCount (s : State) (b : Byte) : (s.setDeclLen b).payloadCount = s.payloadCount := rfl
@[simp] theorem State.setDeclLen_payload (s : State) (b : Byte) : (s.setDeclLen b).payload = s.payload := rfl
@[simp] theorem State.setDeclLen_valid (s : State) (b : Byte) : (s.setDeclLen b).valid = s.valid := rfl
@[simp] theorem State.setDeclLen_timeUs (s : State) (b : Byte) : (s.setDeclLen b).timeUs = s.timeUs := rfl
@[simp] theorem State.setDeclLen_flowCompX (s : State) (b : Byte) : (s.setDeclLen b).flowCompX = s.flowCompX := rfl
@[simp] theorem State.setDeclLen_flowCompY (s : State) (b : Byte) : (s.setDeclLen b).flowCompY = s.flowCompY := rfl
@[simp] theorem State.setDeclLen_groundDistance (s : State) (b : Byte) : (s.setDeclLen b).groundDistance = s.groundDistance := rfl
@[simp] theorem State.setDeclLen_rawFlowX (s : State) (b : Byte) : (s.setDeclLen b).rawFlowX = s.rawFlowX := rfl
@[simp] theorem State.setDeclLen_rawFlowY (s : State) (b : Byte) : (s.setDeclLen b).rawFlowY = s.rawFlowY := rfl
@[simp] theorem State.setDeclLen_quality (s : State) (b : Byte) : (s.setDeclLen b).quality = s.quality := rfl
@[simp] theorem State.setDeclLen_prevValid (s : State) (b : Byte) : (s.setDeclLen b).prevValid = s.prevValid := rfl
@[simp] theorem State.setDeclLen_prevTimeUs (s : State) (b : Byte) : (s.setDeclLen b).prevTimeUs = s.prevTimeUs := rfl
@[simp] theorem State.setDeclLen_accX (s : State) (b : Byte) : (s.setDeclLen b).accX = s.accX := rfl
@[simp] theorem State.setDeclLen_accY (s : State) (b : Byte) : (s.setDeclLen b).accY = s.accY := rfl
@[simp] theorem State.setDeclLen_sampleCount (s : State) (b : Byte) : (s.setDeclLen b).sampleCount = s.sampleCount := rfl
@[simp] theorem State.setDeclLen_derr (s : State) (b : Byte) : (s.setDeclLen b).derr = s.derr := rfl
@[simp] theorem State.setDeclLen_terr (s : State) (b : Byte) : (s.setDeclLen b).terr = s.terr := rfl
@[simp] theorem State.setDeclLen_gapUs (s : State) (b : Byte) : (s.setDeclLen b).gapUs = s.gapUs := rfl
@[simp] theorem State.setDeclLen_inputs (s : State) (b : Byte) : (s.setDeclLen b).inputs = s.inputs := rfl
@[simp] theorem State.setDeclLen_rsp (s : State) (b : Byte) : (s.setDeclLen b).rsp = s.rsp := rfl

@[simp] theorem State.setMsgId_pstate (s : State) (b : Byte) : (s.setMsgId b).pstate = s.pstate := rfl
@[simp] theorem State.setMsgId_declLen (s : State) (b : Byte) : (s.setMsgId b).declLen = s.declLen := rfl
@[simp] theorem State.setMsgId_msgId (s : State) (b : Byte) : (s.setMsgId b).msgId = b := rfl
@[simp] theorem State.setMsgId_payloadCount (s : State) (b : Byte) : (s.setMsgId b).payloadCount = s.payloadCount := rfl
@[simp] theorem State.setMsgId_payload (s : State) (b : Byte) : (s.setMsgId b).payload = s.payload := rfl
@[simp] theorem State.setMsgId_valid (s : State) (b : Byte) : (s.setMsgId b).valid = s.valid := rfl
@[simp] theorem State.setMsgId_timeUs (s : State) (b : Byte) : (s.setMsgId b).timeUs = s.timeUs := rfl
@[simp] theorem State.setMsgId_flowCompX (s : State) (b : Byte) : (s.setMsgId b).flowCompX = s.flowCompX := rfl
@[simp] theorem State.setMsgId_flowCompY (s : State) (b : Byte) : (s.setMsgId b).flowCompY = s.flowCompY := rfl
@[simp] theorem State.setMsgId_groundDistance (s : State) (b : Byte) : (s.setMsgId b).groundDistance = s.groundDistance := rfl
@[simp] theorem State.setMsgId_rawFlowX (s : State) (b : Byte) : (s.setMsgId b).rawFlowX = s.rawFlowX := rfl
@[simp] theorem State.setMsgId_rawFlowY (s : State) (b : Byte) : (s.setMsgId b).rawFlowY = s.rawFlowY := rfl
@[simp] theorem State.setMsgId_quality (s : State) (b : Byte) : (s.setMsgId b).quality = s.quality := rfl
@[simp] theorem State.setMsgId_prevValid (s : State) (b : Byte) : (s.setMsgId b).prevValid = s.prevValid := rfl
@[simp] theorem State.setMsgId_prevTimeUs (s : State) (b : Byte) : (s.setMsgId b).prevTimeUs = s.prevTimeUs := rfl
@[simp] theorem State.setMsgId_accX (s : State) (b : Byte) : (s.setMsgId b).accX = s.accX := rfl
@[simp] theorem State.setMsgId_accY (s : State) (b : Byte) : (s.setMsgId b).accY = s.accY := rfl
@[simp] theorem State.setMsgId_sampleCount (s : State) (b : Byte) : (s.setMsgId b).sampleCount = s.sampleCount := rfl
@[simp] theorem State.setMsgId_derr (s : State) (b : Byte) : (s.setMsgId b).derr = s.derr := rfl
@[simp] theorem State.setMsgId_terr (s : State) (b : Byte) : (s.setMsgId b).terr = s.terr := rfl
@[simp] theorem State.setMsgId_gapUs (s : State) (b : Byte) : (s.setMsgId b).gapUs = s.gapUs := rfl
@[simp] theorem State.setMsgId_inputs (s : State) (b : Byte) : (s.setMsgId b).inputs = s.inputs := rfl
@[simp] theorem State.setMsgId_rsp (s : State) (b : Byte) : (s.setMsgId b).rsp = s.rsp := rfl

@[simp] theorem State.setPayloadCount_pstate (s : State) (n : Byte) : (s.setPayloadCount n).pstate = s.pstate := rfl
@[simp] theorem State.setPayloadCount_declLen (s : State) (n : Byte) : (s.setPayloadCount n).declLen = s.declLen := rfl
@[simp] theorem State.setPayloadCount_msgId (s : State) (n : Byte) : (s.setPayloadCount n).msgId = s.msgId := rfl
@[simp] theorem State.setPayloadCount_payloadCount (s : State) (n : Byte) : (s.setPayloadCount n).payloadCount = n := rfl
@[simp] theorem State.setPayloadCount_payload (s : State) (n : Byte) : (s.setPayloadCount n).payload = s.payload := rfl
@[simp] theorem State.setPayloadCount_valid (s : State) (n : Byte) : (s.setPayloadCount n).valid = s.valid := rfl
@[simp] theorem State.setPayloadCount_timeUs (s : State) (n : Byte) : (s.setPayloadCount n).timeUs = s.timeUs := rfl
@[simp] theorem State.setPayloadCount_flowCompX (s : State) (n : Byte) : (s.setPayloadCount n).flowCompX = s.flowCompX := rfl
@[simp] theorem State.setPayloadCount_flowCompY (s : State) (n : Byte) : (s.setPayloadCount n).flowCompY = s.flowCompY := rfl
@[simp] theorem State.setPayloadCount_groundDistance (s : State) (n : Byte) : (s.setPayloadCount n).groundDistance = s.groundDistance := rfl
@[simp] theorem State.setPayloadCount_rawFlowX (s : State) (n : Byte) : (s.setPayloadCount n).rawFlowX = s.rawFlowX := rfl
@[simp] theorem State.setPayloadCount_rawFlowY (s : State) (n : Byte) : (s.setPayloadCount n).rawFlowY = s.rawFlowY := rfl
@[simp] theorem State.setPayloadCount_quality (s : State) (n : Byte) : (s.setPayloadCount n).quality = s.quality := rfl
@[simp] theorem State.setPayloadCount_prevValid (s : State) (n : Byte) : (s.setPayloadCount n).prevValid = s.prevValid := rfl
@[simp] theorem State.setPayloadCount_prevTimeUs (s : State) (n : Byte) : (s.setPayloadCount n).prevTimeUs = s.prevTimeUs := rfl
@[simp] theorem State.setPayloadCount_accX (s : State) (n : Byte) : (s.setPayloadCount n).accX = s.accX := rfl
@[simp] theorem State.setPayloadCount_accY (s : State) (n : Byte) : (s.setPayloadCount n).accY = s.accY := rfl
@[simp] theorem State.setPayloadCount_sampleCount (s : State) (n : Byte) : (s.setPayloadCount n).sampleCount = s.sampleCount := rfl
@[simp] theorem State.setPayloadCount_derr (s : State) (n : Byte) : (s.setPayloadCount n).derr = s.derr := rfl
@[simp] theorem State.setPayloadCount_terr (s : State) (n : Byte) : (s.setPayloadCount n).terr = s.terr := rfl
@[simp] theorem State.setPayloadCount_gapUs (s : State) (n : Byte) : (s.setPayloadCount n).gapUs = s.gapUs := rfl
@[simp] theorem State.setPayloadCount_inputs (s : State) (n : Byte) : (s.setPayloadCount n).inputs = s.inputs := rfl
@[simp] theorem State.setPayloadCount_rsp (s : State) (n : Byte) : (s.setPayloadCount n).rsp = s.rsp := rfl

@[simp] theorem State.setPayload_pstate (s : State) (m : Memory) : (s.setPayload m).pstate = s.pstate := rfl
@[simp] theorem State.setPayload_declLen (s : State) (m : Memory) : (s.setPayload m).declLen = s.declLen := rfl
@[simp] theorem State.setPayload_msgId (s : State) (m : Memory) : (s.setPayload m).msgId = s.msgId := rfl
@[simp] theorem State.setPayload_payloadCount (s : State) (m : Memory) : (s.setPayload m).payloadCount = s.payloadCount := rfl
@[simp] theorem State.setPayload_payload (s : State) (m : Memory) : (s.setPayload m).payload = m := rfl
@[simp] theorem State.setPayload_valid (s : State) (m : Memory) : (s.setPayload m).valid = s.valid := rfl
@[simp] theorem State.setPayload_timeUs (s : State) (m : Memory) : (s.setPayload m).timeUs = s.timeUs := rfl
@[simp] theorem State.setPayload_flowCompX (s : State) (m : Memory) : (s.setPayload m).flowCompX = s.flowCompX := rfl
@[simp] theorem State.setPayload_flowCompY (s : State) (m : Memory) : (s.setPayload m).flowCompY = s.flowCompY := rfl
@[simp] theorem State.setPayload_groundDistance (s : State) (m : Memory) : (s.setPayload m).groundDistance = s.groundDistance := rfl
@[simp] theorem State.setPayload_rawFlowX (s : State) (m : Memory) : (s.setPayload m).rawFlowX = s.rawFlowX := rfl
@[simp] theorem State.setPayload_rawFlowY (s : State) (m : Memory) : (s.setPayload m).rawFlowY = s.rawFlowY := rfl
@[simp] theorem State.setPayload_quality (s : State) (m : Memory) : (s.setPayload m).quality = s.quality := rfl
@[simp] theorem State.setPayload_prevValid (s : State) (m : Memory) : (s.setPayload m).prevValid = s.prevValid := rfl
@[simp] theorem State.setPayload_prevTimeUs (s : State) (m : Memory) : (s.setPayload m).prevTimeUs = s.prevTimeUs := rfl
@[simp] theorem State.setPayload_accX (s : State) (m : Memory) : (s.setPayload m).accX = s.accX := rfl
@[simp] theorem State.setPayload_accY (s : State) (m : Memory) : (s.setPayload m).accY = s.accY := rfl
@[simp] theorem State.setPayload_sampleCount (s : State) (m : Memory) : (s.setPayload m).sampleCount = s.sampleCount := rfl
@[simp] theorem State.setPayload_derr (s : State) (m : Memory) : (s.setPayload m).derr = s.derr := rfl
@[simp] theorem State.setPayload_terr (s : State) (m : Memory) : (s.setPayload m).terr = s.terr := rfl
@[simp] theorem State.setPayload_gapUs (s : State) (m : Memory) : (s.setPayload m).gapUs = s.gapUs := rfl
@[simp] theorem State.setPayload_inputs (s : State) (m : Memory) : (s.setPayload m).inputs = s.inputs := rfl
@[simp] theorem State.setPayload_rsp (s : State) (m : Memory) : (s.setPayload m).rsp = s.rsp := rfl

@[simp] theorem State.setSampleCount_pstate (s : State) (n : BitVec 64) : (s.setSampleCount n).pstate = s.pstate := rfl
@[simp] theorem State.setSampleCount_declLen (s : State) (n : BitVec 64) : (s.setSampleCount n).declLen = s.declLen := rfl
@[simp] theorem State.setSampleCount_msgId (s : State) (n : BitVec 64) : (s.setSampleCount n).msgId = s.msgId := rfl
@[simp] theorem State.setSampleCount_payloadCount (s : State) (n : BitVec 64) : (s.setSampleCount n).payloadCount = s.payloadCount := rfl
@[simp] theorem State.setSampleCount_payload (s : State) (n : BitVec 64) : (s.setSampleCount n).payload = s.payload := rfl
@[simp] theorem State.setSampleCount_valid (s : State) (n : BitVec 64) : (s.setSampleCount n).valid = s.valid := rfl
@[simp] theorem State.setSampleCount_timeUs (s : State) (n : BitVec 64) : (s.setSampleCount n).timeUs = s.timeUs := rfl
@[simp] theorem State.setSampleCount_flowCompX (s : State) (n : BitVec 64) : (s.setSampleCount n).flowCompX = s.flowCompX := rfl
@[simp] theorem State.setSampleCount_flowCompY (s : State) (n : BitVec 64) : (s.setSampleCount n).flowCompY = s.flowCompY := rfl
@[simp] theorem State.setSampleCount_groundDistance (s : State) (n : BitVec 64) : (s.setSampleCount n).groundDistance = s.groundDistance := rfl
@[simp] theorem State.setSampleCount_rawFlowX (s : State) (n : BitVec 64) : (s.setSampleCount n).rawFlowX = s.rawFlowX := rfl
@[simp] theorem State.setSampleCount_rawFlowY (s : State) (n : BitVec 64) : (s.setSampleCount n).rawFlowY = s.rawFlowY := rfl
@[simp] theorem State.setSampleCount_quality (s : State) (n : BitVec 64) : (s.setSampleCount n).quality = s.quality := rfl
@[simp] theorem State.setSampleCount_prevValid (s : State) (n : BitVec 64) : (s.setSampleCount n).prevValid = s.prevValid := rfl
@[simp] theorem State.setSampleCount_prevTimeUs (s : State) (n : BitVec 64) : (s.setSampleCount n).prevTimeUs = s.prevTimeUs := rfl
@[simp] theorem State.setSampleCount_accX (s : State) (n : BitVec 64) : (s.setSampleCount n).accX = s.accX := rfl
@[simp] theorem State.setSampleCount_accY (s : State) (n : BitVec 64) : (s.setSampleCount n).accY = s.accY := rfl
@[simp] theorem State.setSampleCount_sampleCount (s : State) (n : BitVec 64) : (s.setSampleCount n).sampleCount = n := rfl
@[simp] theorem State.setSampleCount_derr (s : State) (n : BitVec 64) : (s.setSampleCount n).derr = s.derr := rfl
@[simp] theorem State.setSampleCount_terr (s : State) (n : BitVec 64) : (s.setSampleCount n).terr = s.terr := rfl
@[simp] theorem State.setSampleCount_gapUs (s : State) (n : BitVec 64) : (s.setSampleCount n).gapUs = s.gapUs := rfl
@[simp] theorem State.setSampleCount_inputs (s : State) (n : BitVec 64) : (s.setSampleCount n).inputs = s.inputs := rfl
@[simp] theorem State.setSampleCount_rsp (s : State) (n : BitVec 64) : (s.setSampleCount n).rsp = s.rsp := rfl

@[simp] theorem State.setDerr_pstate (s : State) (d : Bool) : (s.setDerr d).pstate = s.pstate := rfl
@[simp] theorem State.setDerr_declLen (s : State) (d : Bool) : (s.setDerr d).declLen = s.declLen := rfl
@[simp] theorem State.setDerr_msgId (s : State) (d : Bool) : (s.setDerr d).msgId = s.msgId := rfl
@[simp] theorem State.setDerr_payloadCount (s : State) (d : Bool) : (s.setDerr d).payloadCount = s.payloadCount := rfl
@[simp] theorem State.setDerr_payload (s : State) (d : Bool) : (s.setDerr d).payload = s.payload := rfl
@[simp] theorem State.setDerr_valid (s : State) (d : Bool) : (s.setDerr d).valid = s.valid := rfl
@[simp] theorem State.setDerr_timeUs (s : State) (d : Bool) : (s.setDerr d).timeUs = s.timeUs := rfl
@[simp] theorem State.setDerr_flowCompX (s : State) (d : Bool) : (s.setDerr d).flowCompX = s.flowCompX := rfl
@[simp] theorem State.setDerr_flowCompY (s : State) (d : Bool) : (s.setDerr d).flowCompY = s.flowCompY := rfl
@[simp] theorem State.setDerr_groundDistance (s : State) (d : Bool) : (s.setDerr d).groundDistance = s.groundDistance := rfl
@[simp] theorem State.setDerr_rawFlowX (s : State) (d : Bool) : (s.setDerr d).rawFlowX = s.rawFlowX := rfl
@[simp] theorem State.setDerr_rawFlowY (s : State) (d : Bool) : (s.setDerr d).rawFlowY = s.rawFlowY := rfl
@[simp] theorem State.setDerr_quality (s : State) (d : Bool) : (s.setDerr d).quality = s.quality := rfl
@[simp] theorem State.setDerr_prevValid (s : State) (d : Bool) : (s.setDerr d).prevValid = s.prevValid := rfl
@[simp] theorem State.setDerr_prevTimeUs (s : State) (d : Bool) : (s.setDerr d).prevTimeUs = s.prevTimeUs := rfl
@[simp] theorem State.setDerr_accX (s : State) (d : Bool) : (s.setDerr d).accX = s.accX := rfl
@[simp] theorem State.setDerr_accY (s : State) (d : Bool) : (s.setDerr d).accY = s.accY := rfl
@[simp] theorem State.setDerr_sampleCount (s : State) (d : Bool) : (s.setDerr d).sampleCount = s.sampleCount := rfl
@[simp] theorem State.setDerr_derr (s : State) (d : Bool) : (s.setDerr d).derr = d := rfl
@[simp] theorem State.setDerr_terr (s : State) (d : Bool) : (s.setDerr d).terr = s.terr := rfl
@[simp] theorem State.setDerr_gapUs (s : State) (d : Bool) : (s.setDerr d).gapUs = s.gapUs := rfl
@[simp] theorem State.setDerr_inputs (s : State) (d : Bool) : (s.setDerr d).inputs = s.inputs := rfl
@[simp] theorem State.setDerr_rsp (s : State) (d : Bool) : (s.setDerr d).rsp = s.rsp := rfl

@[simp] theorem State.setTerr_pstate (s : State) (b : Bool) : (s.setTerr b).pstate = s.pstate := rfl
@[simp] theorem State.setTerr_declLen (s : State) (b : Bool) : (s.setTerr b).declLen = s.declLen := rfl
@[simp] theorem State.setTerr_msgId (s : State) (b : Bool) : (s.setTerr b).msgId = s.msgId := rfl
@[simp] theorem State.setTerr_payloadCount (s : State) (b : Bool) : (s.setTerr b).payloadCount = s.payloadCount := rfl
@[simp] theorem State.setTerr_payload (s : State) (b : Bool) : (s.setTerr b).payload = s.payload := rfl
@[simp] theorem State.setTerr_valid (s : State) (b : Bool) : (s.setTerr b).valid = s.valid := rfl
@[simp] theorem State.setTerr_timeUs (s : State) (b : Bool) : (s.setTerr b).timeUs = s.timeUs := rfl
@[simp] theorem State.setTerr_flowCompX (s : State) (b : Bool) : (s.setTerr b).flowCompX = s.flowCompX := rfl
@[simp] theorem State.setTerr_flowCompY (s : State) (b : Bool) : (s.setTerr b).flowCompY = s.flowCompY := rfl
@[simp] theorem State.setTerr_groundDistance (s : State) (b : Bool) : (s.setTerr b).groundDistance = s.groundDistance := rfl
@[simp] theorem State.setTerr_rawFlowX (s : State) (b : Bool) : (s.setTerr b).rawFlowX = s.rawFlowX := rfl
@[simp] theorem State.setTerr_rawFlowY (s : State) (b : Bool) : (s.setTerr b).rawFlowY = s.rawFlowY := rfl
@[simp] theorem State.setTerr_quality (s : State) (b : Bool) : (s.setTerr b).quality = s.quality := rfl
@[simp] theorem State.setTerr_prevValid (s : State) (b : Bool) : (s.setTerr b).prevValid = s.prevValid := rfl
@[simp] theorem State.setTerr_prevTimeUs (s : State) (b : Bool) : (s.setTerr b).prevTimeUs = s.prevTimeUs := rfl
@[simp] theorem State.setTerr_accX (s : State) (b : Bool) : (s.setTerr b).accX = s.accX := rfl
@[simp] theorem State.setTerr_accY (s : State) (b : Bool) : (s.setTerr b).accY = s.accY := rfl
@[simp] theorem State.setTerr_sampleCount (s : State) (b : Bool) : (s.setTerr b).sampleCount = s.sampleCount := rfl
@[simp] theorem State.setTerr_derr (s : State) (b : Bool) : (s.setTerr b).derr = s.derr := rfl
@[simp] theorem State.setTerr_terr (s : State) (b : Bool) : (s.setTerr b).terr = b := rfl
@[simp] theorem State.setTerr_gapUs (s : State) (b : Bool) : (s.setTerr b).gapUs = s.gapUs := rfl
@[simp] theorem State.setTerr_inputs (s : State) (b : Bool) : (s.setTerr b).inputs = s.inputs := rfl
@[simp] theorem State.setTerr_rsp (s : State) (b : Bool) : (s.setTerr b).rsp = s.rsp := rfl

@[simp] theorem State.setAcc_pstate (s : State) (x y : BitVec 64) : (s.setAcc x y).pstate = s.pstate := rfl
@[simp] theorem State.setAcc_declLen (s : State) (x y : BitVec 64) : (s.setAcc x y).declLen = s.declLen := rfl
@[simp] theorem State.setAcc_msgId (s : State) (x y : BitVec 64) : (s.setAcc x y).msgId = s.msgId := rfl
@[simp] theorem State.setAcc_payloadCount (s : State) (x y : BitVec 64) : (s.setAcc x y).payloadCount = s.payloadCount := rfl
@[simp] theorem State.setAcc_payload (s : State) (x y : BitVec 64) : (s.setAcc x y).payload = s.payload := rfl
@[simp] theorem State.setAcc_valid (s : State) (x y : BitVec 64) : (s.setAcc x y).valid = s.valid := rfl
@[simp] theorem State.setAcc_timeUs (s : State) (x y : BitVec 64) : (s.setAcc x y).timeUs = s.timeUs := rfl
@[simp] theorem State.setAcc_flowCompX (s : State) (x y : BitVec 64) : (s.setAcc x y).flowCompX = s.flowCompX := rfl
@[simp] theorem State.setAcc_flowCompY (s : State) (x y : BitVec 64) : (s.setAcc x y).flowCompY = s.flowCompY := rfl
@[simp] theorem State.setAcc_groundDistance (s : State) (x y : BitVec 64) : (s.setAcc x y).groundDistance = s.groundDistance := rfl
@[simp] theorem State.setAcc_rawFlowX (s : State) (x y : BitVec 64) : (s.setAcc x y).rawFlowX = s.rawFlowX := rfl
@[simp] theorem State.setAcc_rawFlowY (s : State) (x y : BitVec 64) : (s.setAcc x y).rawFlowY = s.rawFlowY := rfl
@[simp] theorem State.setAcc_quality (s : State) (x y : BitVec 64) : (s.setAcc x y).quality = s.quality := rfl
@[simp] theorem State.setAcc_prevValid (s : State) (x y : BitVec 64) : (s.setAcc x y).prevValid = s.prevValid := rfl
@[simp] theorem State.setAcc_prevTimeUs (s : State) (x y : BitVec 64) : (s.setAcc x y).prevTimeUs = s.prevTimeUs := rfl
@[simp] theorem State.setAcc_accX (s : State) (x y : BitVec 64) : (s.setAcc x y).accX = x := rfl
@[simp] theorem State.setAcc_accY (s : State) (x y : BitVec 64) : (s.setAcc x y).accY = y := rfl
@[simp] theorem State.setAcc_sampleCount (s : State) (x y : BitVec 64) : (s.setAcc x y).sampleCount = s.sampleCount := rfl
@[simp] theorem State.setAcc_derr (s : State) (x y : BitVec 64) : (s.setAcc x y).derr = s.derr := rfl
@[simp] theorem State.setAcc_terr (s : State) (x y : BitVec 64) : (s.setAcc x y).terr = s.terr := rfl
@[simp] theorem State.setAcc_gapUs (s : State) (x y : BitVec 64) : (s.setAcc x y).gapUs = s.gapUs := rfl
@[simp] theorem State.setAcc_inputs (s : State) (x y : BitVec 64) : (s.setAcc x y).inputs = s.inputs := rfl
@[simp] theorem State.setAcc_rsp (s : State) (x y : BitVec 64) : (s.setAcc x y).rsp = s.rsp := rfl

@[simp] theorem State.setRsp_pstate (s : State) (r : Option Response) : (s.setRsp r).pstate = s.pstate := rfl
@[simp] theorem State.setRsp_declLen (s : State) (r : Option Response) : (s.setRsp r).declLen = s.declLen := rfl
@[simp] theorem State.setRsp_msgId (s : State) (r : Option Response) : (s.setRsp r).msgId = s.msgId := rfl
@[simp] theorem State.setRsp_payloadCount (s : State) (r : Option Response) : (s.setRsp r).payloadCount = s.payloadCount := rfl
@[simp] theorem State.setRsp_payload (s : State) (r : Option Response) : (s.setRsp r).payload = s.payload := rfl
@[simp] theorem State.setRsp_valid (s : State) (r : Option Response) : (s.setRsp r).valid = s.valid := rfl
@[simp] theorem State.setRsp_timeUs (s : State) (r : Option Response) : (s.setRsp r).timeUs = s.timeUs := rfl
@[simp] theorem State.setRsp_flowCompX (s : State) (r : Option Response) : (s.setRsp r).flowCompX = s.flowCompX := rfl
@[simp] theorem State.setRsp_flowCompY (s : State) (r : Option Response) : (s.setRsp r).flowCompY = s.flowCompY := rfl
@[simp] theorem State.setRsp_groundDistance (s : State) (r : Option Response) : (s.setRsp r).groundDistance = s.groundDistance := rfl
@[simp] theorem State.setRsp_rawFlowX (s : State) (r : Option Response) : (s.setRsp r).rawFlowX = s.rawFlowX := rfl
@[simp] theorem State.setRsp_rawFlowY (s : State) (r : Option Response) : (s.setRsp r).rawFlowY = s.rawFlowY := rfl
@[simp] theorem State.setRsp_quality (s : State) (r : Option Response) : (s.setRsp r).quality = s.quality := rfl
@[simp] theorem State.setRsp_prevValid (s : State) (r : Option Response) : (s.setRsp r).prevValid = s.prevValid := rfl
@[simp] theorem State.setRsp_prevTimeUs (s : State) (r : Option Response) : (s.setRsp r).prevTimeUs = s.prevTimeUs := rfl
@[simp] theorem State.setRsp_accX (s : State) (r : Option Response) : (s.setRsp r).accX = s.accX := rfl
@[simp] theorem State.setRsp_accY (s : State) (r : Option Response) : (s.setRsp r).accY = s.accY := rfl
@[simp] theorem State.setRsp_sampleCount (s : State) (r : Option Response) : (s.setRsp r).sampleCount = s.sampleCount := rfl
@[simp] theorem State.setRsp_derr (s : State) (r : Option Response) : (s.setRsp r).derr = s.derr := rfl
@[simp] theorem State.setRsp_terr (s : State) (r : Option Response) : (s.setRsp r).terr = s.terr := rfl
@[simp] theorem State.setRsp_gapUs (s : State) (r : Option Response) : (s.setRsp r).gapUs = s.gapUs := rfl
@[simp] theorem State.setRsp_inputs (s : State) (r : Option Response) : (s.setRsp r).inputs = s.inputs := rfl
@[simp] theorem State.setRsp_rsp (s : State) (r : Option Response) : (s.setRsp r).rsp = r := rfl

@[simp] theorem State.setInputs_pstate (s : State) (is : List Input) : (s.setInputs is).pstate = s.pstate := rfl
@[simp] theorem State.setInputs_declLen (s : State) (is : List Input) : (s.setInputs is).declLen = s.declLen := rfl
@[simp] theorem State.setInputs_msgId (s : State) (is : List Input) : (s.setInputs is).msgId = s.msgId := rfl
@[simp] theorem State.setInputs_payloadCount (s : State) (is : List Input) : (s.setInputs is).payloadCount = s.payloadCount := rfl
@[simp] theorem State.setInputs_payload (s : State) (is : List Input) : (s.setInputs is).payload = s.payload := rfl
@[simp] theorem State.setInputs_valid (s : State) (is : List Input) : (s.setInputs is).valid = s.valid := rfl
@[simp] theorem State.setInputs_timeUs (s : State) (is : List Input) : (s.setInputs is).timeUs = s.timeUs := rfl
@[simp] theorem State.setInputs_flowCompX (s : State) (is : List Input) : (s.setInputs is).flowCompX = s.flowCompX := rfl
@[simp] theorem State.setInputs_flowCompY (s : State) (is : List Input) : (s.setInputs is).flowCompY = s.flowCompY := rfl
@[simp] theorem State.setInputs_groundDistance (s : State) (is : List Input) : (s.setInputs is).groundDistance = s.groundDistance := rfl
@[simp] theorem State.setInputs_rawFlowX (s : State) (is : List Input) : (s.setInputs is).rawFlowX = s.rawFlowX := rfl
@[simp] theorem State.setInputs_rawFlowY (s : State) (is : List Input) : (s.setInputs is).rawFlowY = s.rawFlowY := rfl
@[simp] theorem State.setInputs_quality (s : State) (is : List Input) : (s.setInputs is).quality = s.quality := rfl
@[simp] theorem State.setInputs_prevValid (s : State) (is : List Input) : (s.setInputs is).prevValid = s.prevValid := rfl
@[simp] theorem State.setInputs_prevTimeUs (s : State) (is : List Input) : (s.setInputs is).prevTimeUs = s.prevTimeUs := rfl
@[simp] theorem State.setInputs_accX (s : State) (is : List Input) : (s.setInputs is).accX = s.accX := rfl
@[simp] theorem State.setInputs_accY (s : State) (is : List Input) : (s.setInputs is).accY = s.accY := rfl
@[simp] theorem State.setInputs_sampleCount (s : State) (is : List Input) : (s.setInputs is).sampleCount = s.sampleCount := rfl
@[simp] theorem State.setInputs_derr (s : State) (is : List Input) : (s.setInputs is).derr = s.derr := rfl
@[simp] theorem State.setInputs_terr (s : State) (is : List Input) : (s.setInputs is).terr = s.terr := rfl
@[simp] theorem State.setInputs_gapUs (s : State) (is : List Input) : (s.setInputs is).gapUs = s.gapUs := rfl
@[simp] theorem State.setInputs_inputs (s : State) (is : List Input) : (s.setInputs is).inputs = is := rfl
@[simp] theorem State.setInputs_rsp (s : State) (is : List Input) : (s.setInputs is).rsp = s.rsp := rfl

@[simp] theorem State.setPrev_pstate (s : State) (t : BitVec 64) : (s.setPrev t).pstate = s.pstate := rfl
@[simp] theorem State.setPrev_declLen (s : State) (t : BitVec 64) : (s.setPrev t).declLen = s.declLen := rfl
@[simp] theorem State.setPrev_msgId (s : State) (t : BitVec 64) : (s.setPrev t).msgId = s.msgId := rfl
@[simp] theorem State.setPrev_payloadCount (s : State) (t : BitVec 64) : (s.setPrev t).payloadCount = s.payloadCount := rfl
@[simp] theorem State.setPrev_payload (s : State) (t : BitVec 64) : (s.setPrev t).payload = s.payload := rfl
@[simp] theorem State.setPrev_valid (s : State) (t : BitVec 64) : (s.setPrev t).valid = s.valid := rfl
@[simp] theorem State.setPrev_timeUs (s : State) (t : BitVec 64) : (s.setPrev t).timeUs = s.timeUs := rfl
@[simp] theorem State.setPrev_flowCompX (s : State) (t : BitVec 64) : (s.setPrev t).flowCompX = s.flowCompX := rfl
@[simp] theorem State.setPrev_flowCompY (s : State) (t : BitVec 64) : (s.setPrev t).flowCompY = s.flowCompY := rfl
@[simp] theorem State.setPrev_groundDistance (s : State) (t : BitVec 64) : (s.setPrev t).groundDistance = s.groundDistance := rfl
@[simp] theorem State.setPrev_rawFlowX (s : State) (t : BitVec 64) : (s.setPrev t).rawFlowX = s.rawFlowX := rfl
@[simp] theorem State.setPrev_rawFlowY (s : State) (t : BitVec 64) : (s.setPrev t).rawFlowY = s.rawFlowY := rfl
@[simp] theorem State.setPrev_quality (s : State) (t : BitVec 64) : (s.setPrev t).quality = s.quality := rfl
@[simp] theorem State.setPrev_prevValid (s : State) (t : BitVec 64) : (s.setPrev t).prevValid = true := rfl
@[simp] theorem State.setPrev_prevTimeUs (s : State) (t : BitVec 64) : (s.setPrev t).prevTimeUs = t := rfl
@[simp] theorem State.setPrev_accX (s : State) (t : BitVec 64) : (s.setPrev t).accX = s.accX := rfl
@[simp] theorem State.setPrev_accY (s : State) (t : BitVec 64) : (s.setPrev t).accY = s.accY := rfl
@[simp] theorem State.setPrev_sampleCount (s : State) (t : BitVec 64) : (s.setPrev t).sampleCount = s.sampleCount := rfl
@[simp] theorem State.setPrev_derr (s : State) (t : BitVec 64) : (s.setPrev t).derr = s.derr := rfl
@[simp] theorem State.setPrev_terr (s : State) (t : BitVec 64) : (s.setPrev t).terr = s.terr := rfl
@[simp] theorem State.setPrev_gapUs (s : State) (t : BitVec 64) : (s.setPrev t).gapUs = s.gapUs := rfl
@[simp] theorem State.setPrev_inputs (s : State) (t : BitVec 64) : (s.setPrev t).inputs = s.inputs := rfl
@[simp] theorem State.setPrev_rsp (s : State) (t : BitVec 64) : (s.setPrev t).rsp = s.rsp := rfl

@[simp] theorem State.setReading_pstate (s : State) (a b c d e : Data) : (s.setReading a b c d e).pstate = s.pstate := rfl
@[simp] theorem State.setReading_declLen (s : State) (a b c d e : Data) : (s.setReading a b c d e).declLen = s.declLen := rfl
@[simp] theorem State.setReading_msgId (s : State) (a b c d e : Data) : (s.setReading a b c d e).msgId = s.msgId := rfl
@[simp] theorem State.setReading_payloadCount (s : State) (a b c d e : Data) : (s.setReading a b c d e).payloadCount = s.payloadCount := rfl
@[simp] theorem State.setReading_payload (s : State) (a b c d e : Data) : (s.setReading a b c d e).payload = s.payload := rfl
@[simp] theorem State.setReading_valid (s : State) (a b c d e : Data) : (s.setReading a b c d e).valid = true := rfl
@[simp] theorem State.setReading_timeUs (s : State) (a b c d e : Data) : (s.setReading a b c d e).timeUs = a := rfl
@[simp] theorem State.setReading_flowCompX (s : State) (a b c d e : Data) : (s.setReading a b c d e).flowCompX = b.extractLsb' 0 32 := rfl
@[simp] theorem State.setReading_flowCompY (s : State) (a b c d e : Data) : (s.setReading a b c d e).flowCompY = b.extractLsb' 32 32 := rfl
@[simp] theorem State.setReading_groundDistance (s : State) (a b c d e : Data) : (s.setReading a b c d e).groundDistance = c.extractLsb' 0 32 := rfl
@[simp] theorem State.setReading_rawFlowX (s : State) (a b c d e : Data) : (s.setReading a b c d e).rawFlowX = d.extractLsb' 0 16 := rfl
@[simp] theorem State.setReading_rawFlowY (s : State) (a b c d e : Data) : (s.setReading a b c d e).rawFlowY = d.extractLsb' 16 16 := rfl
@[simp] theorem State.setReading_quality (s : State) (a b c d e : Data) : (s.setReading a b c d e).quality = e.extractLsb' 0 8 := rfl
@[simp] theorem State.setReading_prevValid (s : State) (a b c d e : Data) : (s.setReading a b c d e).prevValid = s.prevValid := rfl
@[simp] theorem State.setReading_prevTimeUs (s : State) (a b c d e : Data) : (s.setReading a b c d e).prevTimeUs = s.prevTimeUs := rfl
@[simp] theorem State.setReading_accX (s : State) (a b c d e : Data) : (s.setReading a b c d e).accX = s.accX := rfl
@[simp] theorem State.setReading_accY (s : State) (a b c d e : Data) : (s.setReading a b c d e).accY = s.accY := rfl
@[simp] theorem State.setReading_sampleCount (s : State) (a b c d e : Data) : (s.setReading a b c d e).sampleCount = s.sampleCount := rfl
@[simp] theorem State.setReading_derr (s : State) (a b c d e : Data) : (s.setReading a b c d e).derr = s.derr := rfl
@[simp] theorem State.setReading_terr (s : State) (a b c d e : Data) : (s.setReading a b c d e).terr = s.terr := rfl
@[simp] theorem State.setReading_gapUs (s : State) (a b c d e : Data) : (s.setReading a b c d e).gapUs = s.gapUs := rfl
@[simp] theorem State.setReading_inputs (s : State) (a b c d e : Data) : (s.setReading a b c d e).inputs = s.inputs := rfl
@[simp] theorem State.setReading_rsp (s : State) (a b c d e : Data) : (s.setReading a b c d e).rsp = s.rsp := rfl

@[simp] theorem State.respond_pstate (s : State) (c : RspCode) (d : Data) (e : Bool) : (s.respond c d e).pstate = s.pstate := rfl
@[simp] theorem State.respond_declLen (s : State) (c : RspCode) (d : Data) (e : Bool) : (s.respond c d e).declLen = s.declLen := rfl
@[simp] theorem State.respond_msgId (s : State) (c : RspCode) (d : Data) (e : Bool) : (s.respond c d e).msgId = s.msgId := rfl
@[simp] theorem State.respond_payloadCount (s : State) (c : RspCode) (d : Data) (e : Bool) : (s.respond c d e).payloadCount = s.payloadCount := rfl
@[simp] theorem State.respond_payload (s : State) (c : RspCode) (d : Data) (e : Bool) : (s.respond c d e).payload = s.payload := rfl
@[simp] theorem State.respond_valid (s : State) (c : RspCode) (d : Data) (e : Bool) : (s.respond c d e).valid = s.valid := rfl
@[simp] theorem State.respond_timeUs (s : State) (c : RspCode) (d : Data) (e : Bool) : (s.respond c d e).timeUs = s.timeUs := rfl
@[simp] theorem State.respond_flowCompX (s : State) (c : RspCode) (d : Data) (e : Bool) : (s.respond c d e).flowCompX = s.flowCompX := rfl
@[simp] theorem State.respond_flowCompY (s : State) (c : RspCode) (d : Data) (e : Bool) : (s.respond c d e).flowCompY = s.flowCompY := rfl
@[simp] theorem State.respond_groundDistance (s : State) (c : RspCode) (d : Data) (e : Bool) : (s.respond c d e).groundDistance = s.groundDistance := rfl
@[simp] theorem State.respond_rawFlowX (s : State) (c : RspCode) (d : Data) (e : Bool) : (s.respond c d e).rawFlowX = s.rawFlowX := rfl
@[simp] theorem State.respond_rawFlowY (s : State) (c : RspCode) (d : Data) (e : Bool) : (s.respond c d e).rawFlowY = s.rawFlowY := rfl
@[simp] theorem State.respond_quality (s : State) (c : RspCode) (d : Data) (e : Bool) : (s.respond c d e).quality = s.quality := rfl
@[simp] theorem State.respond_prevValid (s : State) (c : RspCode) (d : Data) (e : Bool) : (s.respond c d e).prevValid = s.prevValid := rfl
@[simp] theorem State.respond_prevTimeUs (s : State) (c : RspCode) (d : Data) (e : Bool) : (s.respond c d e).prevTimeUs = s.prevTimeUs := rfl
@[simp] theorem State.respond_accX (s : State) (c : RspCode) (d : Data) (e : Bool) : (s.respond c d e).accX = s.accX := rfl
@[simp] theorem State.respond_accY (s : State) (c : RspCode) (d : Data) (e : Bool) : (s.respond c d e).accY = s.accY := rfl
@[simp] theorem State.respond_sampleCount (s : State) (c : RspCode) (d : Data) (e : Bool) : (s.respond c d e).sampleCount = s.sampleCount := rfl
@[simp] theorem State.respond_derr (s : State) (c : RspCode) (d : Data) (e : Bool) : (s.respond c d e).derr = s.derr := rfl
@[simp] theorem State.respond_terr (s : State) (c : RspCode) (d : Data) (e : Bool) : (s.respond c d e).terr = s.terr := rfl
@[simp] theorem State.respond_gapUs (s : State) (c : RspCode) (d : Data) (e : Bool) : (s.respond c d e).gapUs = s.gapUs := rfl
@[simp] theorem State.respond_inputs (s : State) (c : RspCode) (d : Data) (e : Bool) : (s.respond c d e).inputs = s.inputs := rfl
@[simp] theorem State.respond_rsp (s : State) (c : RspCode) (d : Data) (e : Bool) : (s.respond c d e).rsp = some ⟨c, d, e⟩ := rfl

@[simp] theorem State.done_pstate (s : State) : s.done.pstate = s.pstate := rfl
@[simp] theorem State.done_declLen (s : State) : s.done.declLen = s.declLen := rfl
@[simp] theorem State.done_msgId (s : State) : s.done.msgId = s.msgId := rfl
@[simp] theorem State.done_payloadCount (s : State) : s.done.payloadCount = s.payloadCount := rfl
@[simp] theorem State.done_payload (s : State) : s.done.payload = s.payload := rfl
@[simp] theorem State.done_valid (s : State) : s.done.valid = s.valid := rfl
@[simp] theorem State.done_timeUs (s : State) : s.done.timeUs = s.timeUs := rfl
@[simp] theorem State.done_flowCompX (s : State) : s.done.flowCompX = s.flowCompX := rfl
@[simp] theorem State.done_flowCompY (s : State) : s.done.flowCompY = s.flowCompY := rfl
@[simp] theorem State.done_groundDistance (s : State) : s.done.groundDistance = s.groundDistance := rfl
@[simp] theorem State.done_rawFlowX (s : State) : s.done.rawFlowX = s.rawFlowX := rfl
@[simp] theorem State.done_rawFlowY (s : State) : s.done.rawFlowY = s.rawFlowY := rfl
@[simp] theorem State.done_quality (s : State) : s.done.quality = s.quality := rfl
@[simp] theorem State.done_prevValid (s : State) : s.done.prevValid = s.prevValid := rfl
@[simp] theorem State.done_prevTimeUs (s : State) : s.done.prevTimeUs = s.prevTimeUs := rfl
@[simp] theorem State.done_accX (s : State) : s.done.accX = s.accX := rfl
@[simp] theorem State.done_accY (s : State) : s.done.accY = s.accY := rfl
@[simp] theorem State.done_sampleCount (s : State) : s.done.sampleCount = s.sampleCount := rfl
@[simp] theorem State.done_derr (s : State) : s.done.derr = s.derr := rfl
@[simp] theorem State.done_terr (s : State) : s.done.terr = s.terr := rfl
@[simp] theorem State.done_gapUs (s : State) : s.done.gapUs = s.gapUs := rfl
@[simp] theorem State.done_inputs (s : State) : s.done.inputs = s.inputs := rfl
@[simp] theorem State.done_rsp (s : State) : s.done.rsp = some ⟨.ok, 0, false⟩ := rfl

@[simp] theorem State.raise_pstate (s : State) (c : RspCode) : (s.raise c).pstate = s.pstate := rfl
@[simp] theorem State.raise_declLen (s : State) (c : RspCode) : (s.raise c).declLen = s.declLen := rfl
@[simp] theorem State.raise_msgId (s : State) (c : RspCode) : (s.raise c).msgId = s.msgId := rfl
@[simp] theorem State.raise_payloadCount (s : State) (c : RspCode) : (s.raise c).payloadCount = s.payloadCount := rfl
@[simp] theorem State.raise_payload (s : State) (c : RspCode) : (s.raise c).payload = s.payload := rfl
@[simp] theorem State.raise_valid (s : State) (c : RspCode) : (s.raise c).valid = s.valid := rfl
@[simp] theorem State.raise_timeUs (s : State) (c : RspCode) : (s.raise c).timeUs = s.timeUs := rfl
@[simp] theorem State.raise_flowCompX (s : State) (c : RspCode) : (s.raise c).flowCompX = s.flowCompX := rfl
@[simp] theorem State.raise_flowCompY (s : State) (c : RspCode) : (s.raise c).flowCompY = s.flowCompY := rfl
@[simp] theorem State.raise_groundDistance (s : State) (c : RspCode) : (s.raise c).groundDistance = s.groundDistance := rfl
@[simp] theorem State.raise_rawFlowX (s : State) (c : RspCode) : (s.raise c).rawFlowX = s.rawFlowX := rfl
@[simp] theorem State.raise_rawFlowY (s : State) (c : RspCode) : (s.raise c).rawFlowY = s.rawFlowY := rfl
@[simp] theorem State.raise_quality (s : State) (c : RspCode) : (s.raise c).quality = s.quality := rfl
@[simp] theorem State.raise_prevValid (s : State) (c : RspCode) : (s.raise c).prevValid = s.prevValid := rfl
@[simp] theorem State.raise_prevTimeUs (s : State) (c : RspCode) : (s.raise c).prevTimeUs = s.prevTimeUs := rfl
@[simp] theorem State.raise_accX (s : State) (c : RspCode) : (s.raise c).accX = s.accX := rfl
@[simp] theorem State.raise_accY (s : State) (c : RspCode) : (s.raise c).accY = s.accY := rfl
@[simp] theorem State.raise_sampleCount (s : State) (c : RspCode) : (s.raise c).sampleCount = s.sampleCount := rfl
@[simp] theorem State.raise_derr (s : State) (c : RspCode) : (s.raise c).derr = s.derr := rfl
@[simp] theorem State.raise_terr (s : State) (c : RspCode) : (s.raise c).terr = s.terr := rfl
@[simp] theorem State.raise_gapUs (s : State) (c : RspCode) : (s.raise c).gapUs = s.gapUs := rfl
@[simp] theorem State.raise_inputs (s : State) (c : RspCode) : (s.raise c).inputs = s.inputs := rfl
@[simp] theorem State.raise_rsp (s : State) (c : RspCode) : (s.raise c).rsp = some ⟨c, 0, false⟩ := rfl

@[simp] theorem State.toReset_pstate (s : State) : s.toReset.pstate = State.reset.pstate := rfl
@[simp] theorem State.toReset_declLen (s : State) : s.toReset.declLen = State.reset.declLen := rfl
@[simp] theorem State.toReset_msgId (s : State) : s.toReset.msgId = State.reset.msgId := rfl
@[simp] theorem State.toReset_payloadCount (s : State) : s.toReset.payloadCount = State.reset.payloadCount := rfl
@[simp] theorem State.toReset_payload (s : State) : s.toReset.payload = s.payload := rfl
@[simp] theorem State.toReset_valid (s : State) : s.toReset.valid = State.reset.valid := rfl
@[simp] theorem State.toReset_timeUs (s : State) : s.toReset.timeUs = State.reset.timeUs := rfl
@[simp] theorem State.toReset_flowCompX (s : State) : s.toReset.flowCompX = State.reset.flowCompX := rfl
@[simp] theorem State.toReset_flowCompY (s : State) : s.toReset.flowCompY = State.reset.flowCompY := rfl
@[simp] theorem State.toReset_groundDistance (s : State) : s.toReset.groundDistance = State.reset.groundDistance := rfl
@[simp] theorem State.toReset_rawFlowX (s : State) : s.toReset.rawFlowX = State.reset.rawFlowX := rfl
@[simp] theorem State.toReset_rawFlowY (s : State) : s.toReset.rawFlowY = State.reset.rawFlowY := rfl
@[simp] theorem State.toReset_quality (s : State) : s.toReset.quality = State.reset.quality := rfl
@[simp] theorem State.toReset_prevValid (s : State) : s.toReset.prevValid = State.reset.prevValid := rfl
@[simp] theorem State.toReset_prevTimeUs (s : State) : s.toReset.prevTimeUs = State.reset.prevTimeUs := rfl
@[simp] theorem State.toReset_accX (s : State) : s.toReset.accX = State.reset.accX := rfl
@[simp] theorem State.toReset_accY (s : State) : s.toReset.accY = State.reset.accY := rfl
@[simp] theorem State.toReset_sampleCount (s : State) : s.toReset.sampleCount = State.reset.sampleCount := rfl
@[simp] theorem State.toReset_derr (s : State) : s.toReset.derr = State.reset.derr := rfl
@[simp] theorem State.toReset_terr (s : State) : s.toReset.terr = State.reset.terr := rfl
@[simp] theorem State.toReset_gapUs (s : State) : s.toReset.gapUs = s.gapUs := rfl
@[simp] theorem State.toReset_inputs (s : State) : s.toReset.inputs = s.inputs := rfl
@[simp] theorem State.toReset_rsp (s : State) : s.toReset.rsp = State.reset.rsp := rfl

end Sys2Proof.Machine
end

