-- ==== Sys2Proof/Laws/Driver.lean ====
section
/-! SUPPORT. What the field decoder, the schema decode, Integrate and Accept can do, each said once. -/

namespace Sys2Proof.Machine

/-- The field decoder answers exactly when the range has the tag's width and lies below PAYLOAD_COUNT. -/
theorem State.fieldDecode_eq_some_iff (s : State) (t : TypeTag) (lo hi : Nat) (v : Data) :
    s.fieldDecode t lo hi = some v ↔
      hi = lo + tagWidth t ∧ hi ≤ s.payloadCount.toNat ∧ v = BitVec.ofNat 64 (s.payload.readLE lo (tagWidth t)) := by
  unfold State.fieldDecode
  split
  · simp only [reduceCtorEq, false_iff]; omega
  · split
    · simp only [reduceCtorEq, false_iff]; omega
    · rw [Option.some_inj]
      constructor
      · intro h; exact ⟨by omega, by omega, h.symm⟩
      · intro h; exact h.2.2.symm

/-- The field decoder on a range of the tag's width. -/
theorem State.fieldDecode_of_width (s : State) (t : TypeTag) (lo hi : Nat) (h : hi = lo + tagWidth t) :
    s.fieldDecode t lo hi =
      if hi ≤ s.payloadCount.toNat then some (BitVec.ofNat 64 (s.payload.readLE lo (tagWidth t))) else none := by
  unfold State.fieldDecode
  rw [if_neg (by omega)]
  split <;> split <;> first | rfl | omega

/-- The five schema decodes succeed together, exactly when the payload has 26 bytes (41_field_decoder.md R149). -/
theorem State.decodeSchema_eq (s : State) :
    s.decodeSchema =
      if 26 ≤ s.payloadCount.toNat then
        some (BitVec.ofNat 64 (s.payload.readLE 0 8), BitVec.ofNat 64 (s.payload.readLE 8 8),
          BitVec.ofNat 64 (s.payload.readLE 16 4), BitVec.ofNat 64 (s.payload.readLE 20 4),
          BitVec.ofNat 64 (s.payload.readLE 25 1))
      else none := by
  unfold State.decodeSchema
  simp only [State.fieldDecode_of_width s .u64x1 0 8 rfl, State.fieldDecode_of_width s .f32x2 8 16 rfl,
    State.fieldDecode_of_width s .f32x1 16 20 rfl, State.fieldDecode_of_width s .i16x2 20 24 rfl,
    State.fieldDecode_of_width s .u8x1 25 26 rfl]
  by_cases h : 26 ≤ s.payloadCount.toNat
  · rw [if_pos (by omega), if_pos (by omega), if_pos (by omega), if_pos (by omega), if_pos h, if_pos h]
    rfl
  · rw [if_neg h, if_neg h]
    split
    · simp_all
    · rfl

/-- Integrate changes the accumulators on an accumulated sample, and records the time in every case. -/
theorem State.integrate_eq (s : State) (t : BitVec 64) :
    s.integrate t =
      (if s.prevValid = true ∧ intervalUs t s.prevTimeUs < (s.gapUs.toNat : Int) then
        s.accumulate (intervalUs t s.prevTimeUs) else s).setPrev t := by
  unfold State.integrate State.gapTest
  by_cases hv : s.prevValid = true <;> simp [hv]

/-- Accept on a payload too short for the schema: the count and DERR alone change (R171, R172). -/
theorem State.accept_of_short (s : State) (h : s.payloadCount.toNat < 26) :
    s.accept = ((s.setSampleCount (saturatingSucc s.sampleCount)).setDerr true, .decodeErr) := by
  unfold State.accept
  rw [State.decodeSchema_eq, if_neg (by omega)]
  rfl

/-- Accept on a payload that decodes (R170, R171, R173). -/
theorem State.accept_of_long (s : State) (h : 26 ≤ s.payloadCount.toNat) :
    s.accept =
      ((((s.setSampleCount (saturatingSucc s.sampleCount)).setDerr false).setReading
          (BitVec.ofNat 64 (s.payload.readLE 0 8)) (BitVec.ofNat 64 (s.payload.readLE 8 8))
          (BitVec.ofNat 64 (s.payload.readLE 16 4)) (BitVec.ofNat 64 (s.payload.readLE 20 4))
          (BitVec.ofNat 64 (s.payload.readLE 25 1))).integrate (BitVec.ofNat 64 (s.payload.readLE 0 8)), .ok) := by
  unfold State.accept
  rw [State.decodeSchema_eq, if_pos h]
  rfl

/-- The saturating count as a number (R171). -/
theorem saturatingSucc_toNat (n : BitVec 64) : (saturatingSucc n).toNat = min (n.toNat + 1) (2 ^ 64 - 1) := by
  unfold saturatingSucc
  rw [BitVec.toNat_ofNat]
  exact Nat.mod_eq_of_lt (by omega)

/-! ### What Integrate leaves and records, field by field -/

@[simp] theorem State.integrate_pstate (s : State) (t : BitVec 64) : (s.integrate t).pstate = s.pstate := by
  rw [State.integrate_eq]; split <;> rfl

@[simp] theorem State.integrate_declLen (s : State) (t : BitVec 64) : (s.integrate t).declLen = s.declLen := by
  rw [State.integrate_eq]; split <;> rfl

@[simp] theorem State.integrate_msgId (s : State) (t : BitVec 64) : (s.integrate t).msgId = s.msgId := by
  rw [State.integrate_eq]; split <;> rfl

@[simp] theorem State.integrate_payloadCount (s : State) (t : BitVec 64) : (s.integrate t).payloadCount = s.payloadCount := by
  rw [State.integrate_eq]; split <;> rfl

@[simp] theorem State.integrate_payload (s : State) (t : BitVec 64) : (s.integrate t).payload = s.payload := by
  rw [State.integrate_eq]; split <;> rfl

@[simp] theorem State.integrate_valid (s : State) (t : BitVec 64) : (s.integrate t).valid = s.valid := by
  rw [State.integrate_eq]; split <;> rfl

@[simp] theorem State.integrate_timeUs (s : State) (t : BitVec 64) : (s.integrate t).timeUs = s.timeUs := by
  rw [State.integrate_eq]; split <;> rfl

@[simp] theorem State.integrate_flowCompX (s : State) (t : BitVec 64) : (s.integrate t).flowCompX = s.flowCompX := by
  rw [State.integrate_eq]; split <;> rfl

@[simp] theorem State.integrate_flowCompY (s : State) (t : BitVec 64) : (s.integrate t).flowCompY = s.flowCompY := by
  rw [State.integrate_eq]; split <;> rfl

@[simp] theorem State.integrate_groundDistance (s : State) (t : BitVec 64) : (s.integrate t).groundDistance = s.groundDistance := by
  rw [State.integrate_eq]; split <;> rfl

@[simp] theorem State.integrate_rawFlowX (s : State) (t : BitVec 64) : (s.integrate t).rawFlowX = s.rawFlowX := by
  rw [State.integrate_eq]; split <;> rfl

@[simp] theorem State.integrate_rawFlowY (s : State) (t : BitVec 64) : (s.integrate t).rawFlowY = s.rawFlowY := by
  rw [State.integrate_eq]; split <;> rfl

@[simp] theorem State.integrate_quality (s : State) (t : BitVec 64) : (s.integrate t).quality = s.quality := by
  rw [State.integrate_eq]; split <;> rfl

@[simp] theorem State.integrate_prevValid (s : State) (t : BitVec 64) : (s.integrate t).prevValid = true := by
  rw [State.integrate_eq]; split <;> rfl

@[simp] theorem State.integrate_prevTimeUs (s : State) (t : BitVec 64) : (s.integrate t).prevTimeUs = t := by
  rw [State.integrate_eq]; split <;> rfl

@[simp] theorem State.integrate_sampleCount (s : State) (t : BitVec 64) : (s.integrate t).sampleCount = s.sampleCount := by
  rw [State.integrate_eq]; split <;> rfl

@[simp] theorem State.integrate_derr (s : State) (t : BitVec 64) : (s.integrate t).derr = s.derr := by
  rw [State.integrate_eq]; split <;> rfl

@[simp] theorem State.integrate_terr (s : State) (t : BitVec 64) : (s.integrate t).terr = s.terr := by
  rw [State.integrate_eq]; split <;> rfl

@[simp] theorem State.integrate_gapUs (s : State) (t : BitVec 64) : (s.integrate t).gapUs = s.gapUs := by
  rw [State.integrate_eq]; split <;> rfl

@[simp] theorem State.integrate_inputs (s : State) (t : BitVec 64) : (s.integrate t).inputs = s.inputs := by
  rw [State.integrate_eq]; split <;> rfl

@[simp] theorem State.integrate_rsp (s : State) (t : BitVec 64) : (s.integrate t).rsp = s.rsp := by
  rw [State.integrate_eq]; split <;> rfl

/-- The accumulator of the x axis after Integrate (R174-R177). -/
theorem State.integrate_accX (s : State) (t : BitVec 64) :
    (s.integrate t).accX =
      if s.prevValid = true ∧ intervalUs t s.prevTimeUs < (s.gapUs.toNat : Int) then
        accumulated s.accX s.flowCompX (intervalUs t s.prevTimeUs) else s.accX := by
  rw [State.integrate_eq]; split <;> rfl

/-- The accumulator of the y axis after Integrate (R174-R177). -/
theorem State.integrate_accY (s : State) (t : BitVec 64) :
    (s.integrate t).accY =
      if s.prevValid = true ∧ intervalUs t s.prevTimeUs < (s.gapUs.toNat : Int) then
        accumulated s.accY s.flowCompY (intervalUs t s.prevTimeUs) else s.accY := by
  rw [State.integrate_eq]; split <;> rfl

/-! ### What Accept leaves, field by field -/

@[simp] theorem State.accept_pstate (s : State) : s.accept.1.pstate = s.pstate := by
  unfold State.accept; split <;> simp [State.countSample]

@[simp] theorem State.accept_declLen (s : State) : s.accept.1.declLen = s.declLen := by
  unfold State.accept; split <;> simp [State.countSample]

@[simp] theorem State.accept_msgId (s : State) : s.accept.1.msgId = s.msgId := by
  unfold State.accept; split <;> simp [State.countSample]

@[simp] theorem State.accept_payloadCount (s : State) : s.accept.1.payloadCount = s.payloadCount := by
  unfold State.accept; split <;> simp [State.countSample]

@[simp] theorem State.accept_payload (s : State) : s.accept.1.payload = s.payload := by
  unfold State.accept; split <;> simp [State.countSample]

@[simp] theorem State.accept_terr (s : State) : s.accept.1.terr = s.terr := by
  unfold State.accept; split <;> simp [State.countSample]

@[simp] theorem State.accept_gapUs (s : State) : s.accept.1.gapUs = s.gapUs := by
  unfold State.accept; split <;> simp [State.countSample]

@[simp] theorem State.accept_inputs (s : State) : s.accept.1.inputs = s.inputs := by
  unfold State.accept; split <;> simp [State.countSample]

@[simp] theorem State.accept_rsp (s : State) : s.accept.1.rsp = s.rsp := by
  unfold State.accept; split <;> simp [State.countSample]

@[simp] theorem State.accept_sampleCount (s : State) :
    s.accept.1.sampleCount = saturatingSucc s.sampleCount := by
  unfold State.accept; split <;> simp [State.countSample]

end Sys2Proof.Machine
end

