-- ==== Sys2Proof/Laws/Float.lean ====
section
/-! SUPPORT. The one rounding operation of Machine/Float.lean: `round64` gives the binary64 pattern that is nearest to
the exact rational, ties to even, and an infinity from the overflow bound on (42_driver_integrator.md R179). -/

namespace Sys2Proof.Machine

/-! ### Patterns -/

theorem signed64_toNat (neg : Bool) {mag : Nat} (h : mag < 2 ^ 63) :
    (signed64 neg mag).toNat = (if neg then 2 ^ 63 else 0) + mag := by
  unfold signed64
  have hm : (BitVec.ofNat 63 mag).toNat = mag := by rw [BitVec.toNat_ofNat]; exact Nat.mod_eq_of_lt h
  rw [BitVec.toNat_append, hm, ← Nat.shiftLeft_add_eq_or_of_lt h]
  cases neg <;> simp [Nat.shiftLeft_eq]

theorem unpack64_signed64 (neg : Bool) {mag : Nat} (h : mag < 2 ^ 63) :
    unpack64 (signed64 neg mag) =
      if mag / 2 ^ 52 = 2047 then (if mag % 2 ^ 52 = 0 then .inf neg else .nan)
      else if mag / 2 ^ 52 = 0 then .fin neg (mag % 2 ^ 52) (-1074)
      else .fin neg (2 ^ 52 + mag % 2 ^ 52) ((mag / 2 ^ 52 : Nat) - 1075) := by
  have hn := signed64_toNat neg h
  have hs : (signed64 neg mag).getLsbD 63 = neg := by
    rw [BitVec.getLsbD, Nat.testBit, hn, Nat.shiftRight_eq_div_pow]
    have : ((if neg then 2 ^ 63 else 0) + mag) / 2 ^ 63 = if neg then 1 else 0 := by
      cases neg <;> simp <;> omega
    rw [this]; cases neg <;> rfl
  have he : ((signed64 neg mag).extractLsb' 52 11).toNat = mag / 2 ^ 52 := by
    rw [BitVec.extractLsb'_toNat, hn, Nat.shiftRight_eq_div_pow]
    cases neg <;> simp only [Bool.false_eq_true, if_true, if_false] <;> omega
  have hf : ((signed64 neg mag).extractLsb' 0 52).toNat = mag % 2 ^ 52 := by
    rw [BitVec.extractLsb'_toNat, hn, Nat.shiftRight_eq_div_pow]
    cases neg <;> simp only [Bool.false_eq_true, if_true, if_false] <;> omega
  simp only [unpack64, hs, he, hf]

@[simp] theorem unpack64_inf64 (neg : Bool) : unpack64 (inf64 neg) = .inf neg := by cases neg <;> decide

@[simp] theorem unpack64_canonicalNaN : unpack64 canonicalNaN = .nan := by decide

/-- The sign of an infinity or of a finite number is bit 63 of its pattern. -/
theorem sign_unpack64 {a : BitVec 64} {neg : Bool}
    (h : unpack64 a = .inf neg ∨ ∃ m e, unpack64 a = .fin neg m e) : a.getLsbD 63 = neg := by
  simp only [unpack64] at h
  repeat' split at h
  all_goals simp at h
  all_goals exact h

/-- Every finite pattern is a multiple k · 2^E with |k| < 2^53 and E ≥ -1074. -/
theorem toRat_unpack64 {c : BitVec 64} {y : ℚ} (h : (unpack64 c).toRat = some y) :
    ∃ (k E : ℤ), y = k * (2 : ℚ) ^ E ∧ |k| < 2 ^ 53 ∧ -1074 ≤ E := by
  have hf := (c.extractLsb' 0 52).isLt
  simp only [unpack64] at h
  split at h
  · split at h <;> simp [FloatVal.toRat] at h
  · split at h
    · simp only [FloatVal.toRat, Option.some.injEq] at h
      refine ⟨(if c.getLsbD 63 then -1 else 1) * ((c.extractLsb' 0 52).toNat : ℤ), -1074, ?_, ?_, le_refl _⟩
      · rw [← h]; split <;> simp only [Int.cast_mul, Int.cast_neg, Int.cast_one, Int.cast_natCast]
      · rw [abs_mul, abs_of_nonneg (Int.natCast_nonneg _)]
        split <;> simp only [abs_neg, abs_one, one_mul] <;> exact_mod_cast by omega
    · simp only [FloatVal.toRat, Option.some.injEq] at h
      refine ⟨(if c.getLsbD 63 then -1 else 1) * ((2 ^ 52 + (c.extractLsb' 0 52).toNat : Nat) : ℤ),
        ((c.extractLsb' 52 11).toNat : ℤ) - 1075, ?_, ?_, ?_⟩
      · rw [← h]; split <;> push_cast <;> rfl
      · split
        · rw [neg_one_mul, abs_neg, abs_of_nonneg (by positivity)]; push_cast; omega
        · rw [one_mul, abs_of_nonneg (by positivity)]; push_cast; omega
      · omega

/-- A significand f at exponent Q - 1074, laid out as Q · 2^52 + f, stands for f · 2^(Q - 1074). -/
theorem toRat_signed64 (neg : Bool) {Q f : Nat} (hf : f ≤ 2 ^ 53) (hQ : 0 < Q → 2 ^ 52 ≤ f)
    (hfin : Q * 2 ^ 52 + f < infBits) :
    (unpack64 (signed64 neg (Q * 2 ^ 52 + f))).toRat =
      some ((if neg then -1 else 1) * (f : ℚ) * (2 : ℚ) ^ ((Q : ℤ) - 1074)) := by
  unfold infBits at hfin
  rw [unpack64_signed64 neg (by omega)]
  rcases Nat.lt_or_ge f (2 ^ 52) with h | h
  · have hQ0 : Q = 0 := by by_contra hne; exact absurd (hQ (by omega)) (by omega)
    subst hQ0
    rw [if_neg (by omega), if_pos (by omega), Nat.mod_eq_of_lt (by omega)]
    simp [FloatVal.toRat]
  · rcases Nat.lt_or_ge f (2 ^ 53) with h' | h'
    · have hd : (Q * 2 ^ 52 + f) / 2 ^ 52 = Q + 1 := by omega
      have hm : (Q * 2 ^ 52 + f) % 2 ^ 52 = f - 2 ^ 52 := by omega
      rw [hd, hm, if_neg (by omega), if_neg (by omega), Nat.add_sub_cancel' h]
      simp only [FloatVal.toRat]
      congr 3
      push_cast; ring
    · have hf' : f = 2 ^ 53 := by omega
      have hd : (Q * 2 ^ 52 + f) / 2 ^ 52 = Q + 2 := by omega
      have hm : (Q * 2 ^ 52 + f) % 2 ^ 52 = 0 := by omega
      rw [hd, hm, if_neg (by omega), if_neg (by omega), hf']
      simp only [FloatVal.toRat]
      have : ((Q + 2 : ℕ) : ℤ) - 1075 = ((Q : ℤ) - 1074) + 1 := by push_cast; ring
      rw [this, zpow_add₀ (by norm_num)]
      congr 1
      push_cast; ring

/-! ### The nearest integer -/

/-- No integer is nearer to N / D than `divNearestEven N D`; another is as near only on a tie, and then the result is
even. -/
theorem divNearestEven_nearest (N : Nat) {D : Nat} (hD : 0 < D) (k : ℤ) :
    |(divNearestEven N D : ℚ) - N / D| ≤ |(k : ℚ) - N / D| ∧
      (|(divNearestEven N D : ℚ) - N / D| = |(k : ℚ) - N / D| → (k : ℚ) ≠ divNearestEven N D →
        divNearestEven N D % 2 = 0) := by
  have hD' : (0 : ℚ) < D := by exact_mod_cast hD
  have hdiv := Nat.div_add_mod N D
  have hlt := Nat.mod_lt N hD
  generalize hq : N / D = q at *
  generalize hr : N % D = r at *
  have hz : (N : ℚ) / D = q + r / D := by
    rw [← hdiv]; push_cast; field_simp
  have hr0 : (0 : ℚ) ≤ r / D := by positivity
  have hr1 : (r : ℚ) / D < 1 := by rw [div_lt_one hD']; exact_mod_cast hlt
  rw [hz]
  unfold divNearestEven
  rw [hq, hr]
  split
  · rename_i hc
    have hhalf : (1 : ℚ) / 2 ≤ r / D := by
      rw [div_le_div_iff₀ (by norm_num) hD']
      have : D ≤ 2 * r := by omega
      have : (D : ℚ) ≤ 2 * r := by exact_mod_cast this
      linarith
    have habs : |((q + 1 : Nat) : ℚ) - (q + r / D)| = 1 - r / D := by
      rw [abs_of_nonneg (by push_cast; linarith)]; push_cast; ring
    rw [habs]
    rcases le_or_gt k q with hk | hk
    · have hk' : (k : ℚ) ≤ q := by exact_mod_cast hk
      rw [abs_of_nonpos (by linarith)]
      refine ⟨by linarith, fun heq _ => ?_⟩
      have : (r : ℚ) / D = 1 / 2 := by linarith
      rw [div_eq_div_iff hD'.ne' (by norm_num)] at this
      have : 2 * r = D := by
        have : (2 * r : ℚ) = D := by linarith
        exact_mod_cast this
      omega
    · have hk' : (q : ℚ) + 1 ≤ k := by exact_mod_cast hk
      rw [abs_of_nonneg (by linarith)]
      refine ⟨by linarith, fun heq hne => absurd ?_ hne⟩
      push_cast; linarith
  · rename_i hc
    have hhalf : (r : ℚ) / D ≤ 1 / 2 := by
      rw [div_le_div_iff₀ hD' (by norm_num)]
      have : 2 * r ≤ D := by omega
      have : (2 * r : ℚ) ≤ D := by exact_mod_cast this
      linarith
    have habs : |(q : ℚ) - (q + r / D)| = r / D := by
      rw [abs_of_nonpos (by linarith)]; ring
    rw [habs]
    rcases le_or_gt k q with hk | hk
    · have hk' : (k : ℚ) ≤ q := by exact_mod_cast hk
      rw [abs_of_nonpos (by linarith)]
      exact ⟨by linarith, fun heq hne => absurd (by linarith) hne⟩
    · have hk' : (q : ℚ) + 1 ≤ k := by exact_mod_cast hk
      rw [abs_of_nonneg (by linarith)]
      refine ⟨by linarith, fun heq _ => ?_⟩
      have : (r : ℚ) / D = 1 / 2 := by linarith
      rw [div_eq_div_iff hD'.ne' (by norm_num)] at this
      have : 2 * r = D := by
        have : (2 * r : ℚ) = D := by linarith
        exact_mod_cast this
      omega

/-! ### The exponent -/

/-- `ratLog2` is the exponent of the leading bit of n / d. -/
theorem ratLog2_spec {n d : Nat} (hn : 0 < n) (hd : 0 < d) :
    (2 : ℚ) ^ ratLog2 n d ≤ n / d ∧ (n : ℚ) / d < (2 : ℚ) ^ (ratLog2 n d + 1) := by
  have hd' : (0 : ℚ) < d := by exact_mod_cast hd
  have hn1 : (2 : ℚ) ^ (n.log2 : ℤ) ≤ n := by
    rw [zpow_natCast]; exact_mod_cast Nat.log2_self_le hn.ne'
  have hn2 : (n : ℚ) < (2 : ℚ) ^ ((n.log2 : ℤ) + 1) := by
    have := Nat.lt_log2_self (n := n)
    have h : (n : ℚ) < (2 : ℚ) ^ (n.log2 + 1) := by exact_mod_cast this
    rw [← zpow_natCast] at h; exact_mod_cast h
  have hd1 : (2 : ℚ) ^ (d.log2 : ℤ) ≤ d := by
    rw [zpow_natCast]; exact_mod_cast Nat.log2_self_le hd.ne'
  have hd2 : (d : ℚ) < (2 : ℚ) ^ ((d.log2 : ℤ) + 1) := by
    have := Nat.lt_log2_self (n := d)
    have h : (d : ℚ) < (2 : ℚ) ^ (d.log2 + 1) := by exact_mod_cast this
    rw [← zpow_natCast] at h; exact_mod_cast h
  have two : (2 : ℚ) ≠ 0 := by norm_num
  have key : ∀ k : ℤ, d * 2 ^ k.toNat ≤ n * 2 ^ (-k).toNat ↔ (2 : ℚ) ^ k ≤ n / d := by
    intro k
    rw [le_div_iff₀ hd']
    have hk : (2 : ℚ) ^ k * 2 ^ (-k).toNat = 2 ^ k.toNat := by
      rw [← zpow_natCast, ← zpow_natCast, ← zpow_add₀ two]
      congr 1; omega
    have hp : (0 : ℚ) < 2 ^ (-k).toNat := by positivity
    constructor
    · intro h
      have h' : (d : ℚ) * 2 ^ k.toNat ≤ n * 2 ^ (-k).toNat := by exact_mod_cast h
      rw [← hk] at h'
      exact le_of_mul_le_mul_right (by linarith) hp
    · intro h
      have h' := mul_le_mul_of_nonneg_right h hp.le
      have : (d : ℚ) * 2 ^ k.toNat ≤ n * 2 ^ (-k).toNat := by rw [← hk]; linarith
      exact_mod_cast this
  unfold ratLog2
  simp only
  split
  · rename_i h
    refine ⟨(key _).mp h, ?_⟩
    rw [div_lt_iff₀ hd']
    calc (n : ℚ) < 2 ^ ((n.log2 : ℤ) + 1) := hn2
      _ = 2 ^ ((n.log2 : ℤ) - d.log2 + 1) * 2 ^ (d.log2 : ℤ) := by
        rw [← zpow_add₀ two]; congr 1; ring
      _ ≤ _ := mul_le_mul_of_nonneg_left hd1 (by positivity)
  · rename_i h
    rw [key, not_le] at h
    refine ⟨?_, by rwa [sub_add_cancel]⟩
    rw [le_div_iff₀ hd']
    calc (2 : ℚ) ^ ((n.log2 : ℤ) - d.log2 - 1) * d
        ≤ 2 ^ ((n.log2 : ℤ) - d.log2 - 1) * 2 ^ ((d.log2 : ℤ) + 1) :=
          mul_le_mul_of_nonneg_left hd2.le (by positivity)
      _ = 2 ^ (n.log2 : ℤ) := by rw [← zpow_add₀ two]; congr 1; ring
      _ ≤ n := hn1

/-- The significand handed to the integer rounding is n / d · 2^(e - q). -/
theorem scaled_div (n : Nat) {d : Nat} (hd : 0 < d) (e q : ℤ) :
    ((n * 2 ^ (e - q).toNat : Nat) : ℚ) / ((d * 2 ^ (q - e).toNat : Nat) : ℚ) = n / d * (2 : ℚ) ^ (e - q) := by
  have hd' : (d : ℚ) ≠ 0 := by exact_mod_cast hd.ne'
  have two : (2 : ℚ) ≠ 0 := by norm_num
  have h : (2 : ℚ) ^ (e - q) * 2 ^ (q - e).toNat = 2 ^ (e - q).toNat := by
    rw [← zpow_natCast, ← zpow_natCast, ← zpow_add₀ two]
    congr 1; omega
  push_cast
  rw [div_eq_iff (by positivity), ← h]
  field_simp

/-! ### The nearest binary64 number -/

/-- The quantum's two bounds: the significand is below 2^53, and at least 2^52 unless the result is subnormal. -/
theorem quantum_spec {n d : Nat} (hn : 0 < n) (hd : 0 < d) (e : ℤ) :
    -1074 ≤ quantum n d e ∧
    (n : ℚ) / d * (2 : ℚ) ^ (e - quantum n d e) < 2 ^ 53 ∧
    (-1074 < quantum n d e → (2 : ℚ) ^ 52 ≤ n / d * (2 : ℚ) ^ (e - quantum n d e)) := by
  obtain ⟨hlo, hhi⟩ := ratLog2_spec hn hd
  have two : (2 : ℚ) ≠ 0 := by norm_num
  have hq : quantum n d e = max (ratLog2 n d + e - 52) (-1074) := rfl
  generalize quantum n d e = q at *
  generalize ratLog2 n d = k at *
  refine ⟨by omega, ?_, fun hsub => ?_⟩
  · calc (n : ℚ) / d * 2 ^ (e - q) < 2 ^ (k + 1) * 2 ^ (e - q) :=
          mul_lt_mul_of_pos_right hhi (by positivity)
      _ = 2 ^ (k + 1 + (e - q)) := (zpow_add₀ two _ _).symm
      _ ≤ 2 ^ (53 : ℤ) := zpow_le_zpow_right₀ (by norm_num) (by omega)
      _ = 2 ^ 53 := by norm_num
  · calc (2 : ℚ) ^ 52 = 2 ^ (k + (e - q)) := by
          rw [show k + (e - q) = ((52 : ℕ) : ℤ) by omega, zpow_natCast]
      _ = 2 ^ k * 2 ^ (e - q) := by rw [zpow_add₀ two]
      _ ≤ _ := mul_le_mul_of_nonneg_right hlo (by positivity)

/-- Among all multiples k · 2^E of the format, none is nearer to x = z · 2^q than the nearest integer f to z, times 2^q;
one as near only on a tie, with f even. -/
theorem nearest_on_grid {z : ℚ} {f : ℕ} {q : ℤ}
    (hnear : ∀ k : ℤ, |(f : ℚ) - z| ≤ |(k : ℚ) - z| ∧ (|(f : ℚ) - z| = |(k : ℚ) - z| → (k : ℚ) ≠ f → f % 2 = 0))
    (hnorm : -1074 < q → (2 : ℚ) ^ 52 ≤ z) {k E : ℤ} (hk : |k| < 2 ^ 53) (hE : -1074 ≤ E) :
    |(f : ℚ) * 2 ^ q - z * 2 ^ q| ≤ |(k : ℚ) * 2 ^ E - z * 2 ^ q| ∧
      (|(f : ℚ) * 2 ^ q - z * 2 ^ q| = |(k : ℚ) * 2 ^ E - z * 2 ^ q| → (k : ℚ) * 2 ^ E ≠ f * 2 ^ q → f % 2 = 0) := by
  have two : (2 : ℚ) ≠ 0 := by norm_num
  have hp : (0 : ℚ) < 2 ^ q := by positivity
  have hscale : ∀ a : ℚ, |a * 2 ^ q - z * 2 ^ q| = |a - z| * 2 ^ q := fun a => by
    rw [← sub_mul, abs_mul, abs_of_pos hp]
  rcases le_or_gt q E with h | h
  · obtain ⟨j, hj⟩ : ∃ j : ℕ, E = j + q := ⟨(E - q).toNat, by omega⟩
    have hy : (k : ℚ) * 2 ^ E = ((k * 2 ^ j : ℤ) : ℚ) * 2 ^ q := by
      rw [hj, zpow_add₀ two, zpow_natCast]; push_cast; ring
    rw [hy, hscale, hscale]
    obtain ⟨h1, h2⟩ := hnear (k * 2 ^ j)
    refine ⟨mul_le_mul_of_nonneg_right h1 hp.le, fun heq hne => h2 (mul_right_cancel₀ hp.ne' heq) fun he => hne ?_⟩
    rw [he]
  · have hz := hnorm (by omega)
    have hlt : (k : ℚ) * 2 ^ E < 2 ^ 52 * 2 ^ q := by
      have hk1 : (k : ℚ) < 2 ^ 53 := by
        have := (abs_lt.mp hk).2
        exact_mod_cast this
      calc (k : ℚ) * 2 ^ E < 2 ^ 53 * 2 ^ E := mul_lt_mul_of_pos_right hk1 (by positivity)
        _ = 2 ^ 52 * 2 ^ (E + 1) := by rw [zpow_add₀ two]; ring
        _ ≤ _ := mul_le_mul_of_nonneg_left (zpow_le_zpow_right₀ (by norm_num) (by omega)) (by positivity)
    have hge : (2 : ℚ) ^ 52 * 2 ^ q ≤ z * 2 ^ q := mul_le_mul_of_nonneg_right hz hp.le
    have hf := mul_le_mul_of_nonneg_right (hnear (2 ^ 52)).1 hp.le
    rw [← hscale, ← hscale] at hf
    have hgrid : |(((2 ^ 52 : ℤ) : ℚ)) * 2 ^ q - z * 2 ^ q| = z * 2 ^ q - 2 ^ 52 * 2 ^ q := by
      rw [abs_of_nonpos (by push_cast; linarith)]; push_cast; ring
    rw [hgrid] at hf
    have hstrict : |(f : ℚ) * 2 ^ q - z * 2 ^ q| < |(k : ℚ) * 2 ^ E - z * 2 ^ q| := by
      rw [abs_of_nonpos (a := (k : ℚ) * 2 ^ E - z * 2 ^ q) (by linarith)]
      linarith
    exact ⟨hstrict.le, fun heq => absurd heq hstrict.ne⟩

/-- The last bit of a pattern is its magnitude's. -/
theorem getLsbD_zero_signed64 (neg : Bool) {mag : Nat} (h : mag < 2 ^ 63) (he : mag % 2 = 0) :
    (signed64 neg mag).getLsbD 0 = false := by
  rw [BitVec.getLsbD, Nat.testBit_zero, signed64_toNat neg h]
  cases neg <;> simp only [Bool.false_eq_true, if_true, if_false, decide_eq_false_iff_not] <;> omega

/-- A positive exact value n / d · 2^e beyond the bound, or not, by its significand and quantum. -/
theorem roundMag_overflow {n d : Nat} (hn : 0 < n) (hd : 0 < d) (e : ℤ) :
    let q := quantum n d e
    let f := divNearestEven (n * 2 ^ (e - q).toNat) (d * 2 ^ (q - e).toNat)
    f ≤ 2 ^ 53 ∧ (-1074 < q → 2 ^ 52 ≤ f) ∧
      (infBits ≤ (q + 1074).toNat * 2 ^ 52 + f ↔ overflowBound ≤ (n : ℚ) / d * 2 ^ e) := by
  intro q f
  obtain ⟨hq, hlt, hge⟩ := quantum_spec hn hd e
  change -1074 ≤ q at hq
  change _ * (2 : ℚ) ^ (e - q) < _ at hlt
  change -1074 < q → _ ≤ _ * (2 : ℚ) ^ (e - q) at hge
  have two : (2 : ℚ) ≠ 0 := by norm_num
  have hnear := divNearestEven_nearest (n * 2 ^ (e - q).toNat) (D := d * 2 ^ (q - e).toNat) (by positivity)
  rw [scaled_div n hd e q] at hnear
  change ∀ k : ℤ, |(f : ℚ) - _| ≤ _ ∧ (|(f : ℚ) - _| = _ → (k : ℚ) ≠ f → f % 2 = 0) at hnear
  have hx : (n : ℚ) / d * 2 ^ e = n / d * 2 ^ (e - q) * 2 ^ q := by
    rw [mul_assoc, ← zpow_add₀ two, sub_add_cancel]
  rw [hx]
  generalize (n : ℚ) / d * 2 ^ (e - q) = z at *
  have hf53 : f ≤ 2 ^ 53 := by
    by_contra hc
    have h1 := (hnear (2 ^ 53)).1
    have hc' : (2 : ℚ) ^ 53 + 1 ≤ f := by exact_mod_cast (by omega : 2 ^ 53 + 1 ≤ f)
    rw [abs_of_nonneg (by linarith), abs_of_nonneg (by push_cast; linarith)] at h1
    push_cast at h1; linarith
  have hf52 : -1074 < q → 2 ^ 52 ≤ f := by
    intro h
    by_contra hc
    have hz := hge h
    have h1 := (hnear (2 ^ 52)).1
    have hc' : (f : ℚ) + 1 ≤ 2 ^ 52 := by exact_mod_cast (by omega : f + 1 ≤ 2 ^ 52)
    rw [abs_of_nonpos (by linarith), abs_of_nonpos (by push_cast; linarith)] at h1
    push_cast at h1; linarith
  refine ⟨hf53, hf52, ?_⟩
  have hp : (0 : ℚ) < 2 ^ q := by positivity
  unfold infBits overflowBound
  rcases lt_trichotomy q 971 with h | h | h
  · have h1 : ¬ 2047 * 2 ^ 52 ≤ (q + 1074).toNat * 2 ^ 52 + f := by omega
    have h2 : z * 2 ^ q < (2 ^ 54 - 1) * 2 ^ 970 := by
      calc z * 2 ^ q < 2 ^ 53 * 2 ^ q := mul_lt_mul_of_pos_right hlt hp
        _ ≤ 2 ^ 53 * 2 ^ (970 : ℤ) :=
          mul_le_mul_of_nonneg_left (zpow_le_zpow_right₀ (by norm_num) (by omega)) (by positivity)
        _ ≤ _ := by
          rw [show ((970 : ℤ)) = ((970 : ℕ) : ℤ) by norm_num, zpow_natCast]
          exact mul_le_mul_of_nonneg_right (by norm_num) (by positivity)
    exact iff_of_false h1 (not_le.mpr h2)
  · have hb : ((2 : ℚ) ^ 54 - 1) * 2 ^ 970 = (2 ^ 53 - 1 / 2) * 2 ^ q := by
      have hs : (2 : ℚ) ^ (971 : ℤ) = 2 ^ 970 * 2 := by
        rw [show ((971 : ℤ)) = ((970 + 1 : ℕ) : ℤ) by norm_num, zpow_natCast, pow_succ]
      rw [h, hs]
      generalize (2 : ℚ) ^ 970 = A
      ring
    rw [hb, mul_le_mul_iff_left₀ hp]
    have h1 : 2047 * 2 ^ 52 ≤ (q + 1074).toNat * 2 ^ 52 + f ↔ 2 ^ 53 ≤ f := by omega
    rw [h1]
    constructor
    · intro hf
      have hf' : (f : ℚ) = 2 ^ 53 := by exact_mod_cast (by omega : f = 2 ^ 53)
      by_contra hc
      have h2 := (hnear (2 ^ 53 - 1)).1
      rw [hf', abs_of_nonneg (by linarith)] at h2
      rcases abs_cases (((2 ^ 53 - 1 : ℤ) : ℚ) - z) with ⟨h3, _⟩ | ⟨h3, _⟩ <;> rw [h3] at h2 <;> push_cast at h2 <;>
        linarith
    · intro hz
      by_contra hc
      have hf' : (f : ℚ) ≤ 2 ^ 53 - 1 := by
        have : f + 1 ≤ 2 ^ 53 := by omega
        have : (f : ℚ) + 1 ≤ 2 ^ 53 := by exact_mod_cast this
        linarith
      obtain ⟨h2, h3⟩ := hnear (2 ^ 53)
      rw [abs_of_nonpos (by linarith), abs_of_nonneg (by push_cast; linarith)] at h2 h3
      push_cast at h2 h3
      have hfe : (f : ℚ) = 2 ^ 53 - 1 := by linarith
      have hodd : f = 2 ^ 53 - 1 := by
        have : (f : ℚ) + 1 = 2 ^ 53 := by linarith
        have : f + 1 = 2 ^ 53 := by exact_mod_cast this
        omega
      have := h3 (by linarith) (by rw [hfe]; norm_num)
      omega
  · have hf := hf52 (by omega)
    have h1 : 2047 * 2 ^ 52 ≤ (q + 1074).toNat * 2 ^ 52 + f := by omega
    refine iff_of_true h1 ?_
    calc ((2 : ℚ) ^ 54 - 1) * 2 ^ 970 ≤ 2 ^ 52 * 2 ^ (972 : ℤ) := by
          rw [show ((972 : ℤ)) = ((970 + 2 : ℕ) : ℤ) by norm_num, zpow_natCast, pow_add]
          have : (0 : ℚ) < 2 ^ 970 := by positivity
          generalize (2 : ℚ) ^ 970 = A at *
          linarith
      _ ≤ 2 ^ 52 * 2 ^ q :=
        mul_le_mul_of_nonneg_left (zpow_le_zpow_right₀ (by norm_num) (by omega)) (by positivity)
      _ ≤ z * 2 ^ q := mul_le_mul_of_nonneg_right (hge (by omega)) hp.le

/-- The sign in front of an exact value. -/
def signRat (neg : Bool) : ℚ := if neg then -1 else 1

/-- `round64` is roundTiesToEven of the exact rational (-1)^neg · n / d · 2^e. -/
theorem round64_roundedNearestEven (neg : Bool) (n : Nat) {d : Nat} (hd : 0 < d) (e : ℤ) :
    RoundedNearestEven (signRat neg * (n / d * 2 ^ e)) (round64 neg n d e) := by
  have habs : ∀ a : ℚ, |signRat neg * a| = |a| := fun a => by
    unfold signRat; split <;> simp
  rcases Nat.eq_zero_or_pos n with rfl | hn
  · refine .inr ⟨by rw [habs]; simp [overflowBound]; norm_num, 0, ?_, fun c y _ => ?_⟩
    · have := toRat_signed64 neg (Q := 0) (f := 0) (by norm_num) (by omega) (by decide)
      simpa [round64, roundMag] using this
    · simp only [CharP.cast_eq_zero, zero_div, zero_mul, mul_zero, sub_zero, abs_zero]
      exact ⟨abs_nonneg y, fun h hne => absurd (abs_eq_zero.mp h.symm) hne⟩
  have hd' : (0 : ℚ) < d := by exact_mod_cast hd
  have hn' : (0 : ℚ) < n := by exact_mod_cast hn
  have hpos : (0 : ℚ) < n / d * 2 ^ e := by positivity
  obtain ⟨hq, hlt, hge⟩ := quantum_spec hn hd e
  obtain ⟨hf53, hf52, hov⟩ := roundMag_overflow hn hd e
  have hnear := divNearestEven_nearest (n * 2 ^ (e - quantum n d e).toNat)
    (D := d * 2 ^ (quantum n d e - e).toNat) (by positivity)
  have hr : round64 neg n d e = signed64 neg (min ((quantum n d e + 1074).toNat * 2 ^ 52 +
      divNearestEven (n * 2 ^ (e - quantum n d e).toNat) (d * 2 ^ (quantum n d e - e).toNat)) infBits) := by
    unfold round64 roundMag
    rw [if_neg (by omega)]
  rw [scaled_div n hd e _] at hnear
  have hx : (n : ℚ) / d * 2 ^ e = n / d * 2 ^ (e - quantum n d e) * 2 ^ quantum n d e := by
    rw [mul_assoc, ← zpow_add₀ (by norm_num), sub_add_cancel]
  rw [hr]
  generalize divNearestEven (n * 2 ^ (e - quantum n d e).toNat) (d * 2 ^ (quantum n d e - e).toNat) = f at *
  generalize quantum n d e = q at *
  unfold RoundedNearestEven
  rw [habs, abs_of_pos hpos]
  by_cases hc : overflowBound ≤ (n : ℚ) / d * 2 ^ e
  · refine .inl ⟨hc, ?_⟩
    rw [min_eq_right (hov.mpr hc), unpack64_signed64 neg (by decide)]
    have : decide (signRat neg * ((n : ℚ) / d * 2 ^ e) < 0) = neg := by
      cases neg
      · simpa [signRat] using hpos.le
      · simpa [signRat] using hpos
    rw [this]
    simp [infBits]
  · have hfin : (q + 1074).toNat * 2 ^ 52 + f < infBits := not_le.mp fun h => hc (hov.mp h)
    rw [min_eq_left hfin.le]
    have hQ : (((q + 1074).toNat : ℕ) : ℤ) - 1074 = q := by omega
    refine .inr ⟨not_le.mp hc, signRat neg * f * 2 ^ q, ?_, fun c y hy => ?_⟩
    · rw [toRat_signed64 neg hf53 (fun h => hf52 (by omega)) hfin, hQ]
      rfl
    · obtain ⟨k, E, rfl, hk, hE⟩ := toRat_unpack64 hy
      rw [hx]
      have hmag : (q + 1074).toNat * 2 ^ 52 + f < 2 ^ 63 := by unfold infBits at hfin; omega
      cases neg
      · obtain ⟨h1, h2⟩ := nearest_on_grid hnear hge hk hE
        simp only [signRat, Bool.false_eq_true, if_false, one_mul]
        exact ⟨h1, fun heq hne => getLsbD_zero_signed64 false hmag (by have := h2 heq hne; omega)⟩
      · obtain ⟨h1, h2⟩ := nearest_on_grid (k := -k) hnear hge (by rwa [abs_neg]) hE
        simp only [signRat, if_true, neg_one_mul]
        have flip : ∀ a b : ℚ, |-a - -b| = |a - b| := fun a b => by
          rw [show -a - -b = -(a - b) by ring, abs_neg]
        have flip' : ∀ a b : ℚ, |a - -b| = |-a - b| := fun a b => by
          rw [show a - -b = -(-a - b) by ring, abs_neg]
        rw [neg_mul, flip, flip']
        push_cast at h1 h2
        rw [neg_mul] at h1 h2
        refine ⟨h1, fun heq hne => getLsbD_zero_signed64 true hmag ?_⟩
        have := h2 heq fun h => hne (by rw [← h, neg_neg])
        omega

end Sys2Proof.Machine
end

