-- ==== Sys2Proof/Laws/Ops.lean ====
section
/-! SUPPORT. What each shared operation of the machine can do, said once: appending a payload byte, taking an input, and
the inversion of every operation: if it answers next, then one of these cases holds. -/

namespace Sys2Proof.Machine

/-- Appending inside the payload space. -/
theorem State.appendPayload_of_lt (s : State) (b : Byte) (h : s.payloadCount.toNat < Config.payloadCap) :
    s.appendPayload b =
      some ((s.setPayload (s.payload.write s.payloadCount.toNat b)).setPayloadCount (s.payloadCount + 1)) :=
  if_pos h

/-- Appending at index 255 has no address. -/
theorem State.appendPayload_of_ge (s : State) (b : Byte) (h : ¬ s.payloadCount.toNat < Config.payloadCap) :
    s.appendPayload b = none :=
  if_neg h

/-- IN_PAYLOAD inside the payload space (R116). -/
theorem State.takePayloadByte_of_lt (s : State) (b : Byte) (h : s.payloadCount.toNat < Config.payloadCap) :
    s.takePayloadByte b = .next
      ((((s.setPayload (s.payload.write s.payloadCount.toNat b)).setPayloadCount (s.payloadCount + 1)).setPstate
        (if s.payloadCount + 1 = s.declLen then .gotCka else s.pstate)).done) := by
  unfold State.takePayloadByte
  rw [State.appendPayload_of_lt s b h]
  by_cases hc : s.payloadCount + 1 = s.declLen
  · rw [if_pos hc]
    exact congrArg (fun u => Host.Outcome.next (State.done u)) (if_pos hc)
  · rw [if_neg hc]
    exact congrArg (fun u => Host.Outcome.next (State.done u)) (if_neg hc)

/-! ### BYTE branch by branch (R110) -/

/-- BYTE while TERR = 1 (R111). -/
theorem execByte_of_terr {b : Byte} {s : State} (h : s.terr = true) : execByte b s = .next (s.raise .transportErr) := by
  unfold execByte
  rw [if_pos h]

/-- BYTE of a sentinel (R112). -/
theorem execByte_of_sentinel {s : State} (h : s.terr = false) :
    execByte Config.sentinel s = .next s.restartFrame.done := by
  unfold execByte
  rw [if_neg (by simp [h]), if_pos rfl]

/-- BYTE of any other byte takes the parser state's own branch (R112). -/
theorem execByte_of_ne {b : Byte} {s : State} (h : s.terr = false) (hb : b ≠ Config.sentinel) :
    execByte b s = s.parse b := by
  unfold execByte
  rw [if_neg (by simp [h]), if_neg hb]

theorem State.parse_idle {s : State} (b : Byte) (h : s.pstate = .idle) : s.parse b = .next s.done := by
  unfold State.parse; rw [h]

theorem State.parse_gotStx {s : State} (b : Byte) (h : s.pstate = .gotStx) :
    s.parse b = .next ((s.setDeclLen b).setPstate .gotLen).done := by
  unfold State.parse; rw [h]

theorem State.parse_gotLen {s : State} (b : Byte) (h : s.pstate = .gotLen) :
    s.parse b = .next (s.setPstate .gotSeq).done := by
  unfold State.parse; rw [h]

theorem State.parse_gotSeq {s : State} (b : Byte) (h : s.pstate = .gotSeq) :
    s.parse b = .next (s.setPstate .gotSys).done := by
  unfold State.parse; rw [h]

theorem State.parse_gotSys {s : State} (b : Byte) (h : s.pstate = .gotSys) :
    s.parse b = .next (s.setPstate .gotComp).done := by
  unfold State.parse; rw [h]

theorem State.parse_gotComp {s : State} (b : Byte) (h : s.pstate = .gotComp) :
    s.parse b = .next (s.takeMsgId b).done := by
  unfold State.parse; rw [h]

theorem State.parse_inPayload {s : State} (b : Byte) (h : s.pstate = .inPayload) :
    s.parse b = s.takePayloadByte b := by
  unfold State.parse; rw [h]

theorem State.parse_gotCka {s : State} (b : Byte) (h : s.pstate = .gotCka) :
    s.parse b = .next (s.setPstate .gotCkb).done := by
  unfold State.parse; rw [h]

theorem State.parse_gotCkb {s : State} (b : Byte) (h : s.pstate = .gotCkb) : s.parse b = .next s.takeCkb := by
  unfold State.parse; rw [h]

/-- GOT_CKB of a target frame (R118). -/
theorem State.takeCkb_of_target {s : State} (h : s.msgId = Config.targetId) :
    s.takeCkb = (s.setPstate .idle).accept.1.respond (s.setPstate .idle).accept.2 0 true := by
  unfold State.takeCkb
  rw [if_pos h]

/-- GOT_CKB of any other frame (R117). -/
theorem State.takeCkb_of_other {s : State} (h : s.msgId ≠ Config.targetId) : s.takeCkb = s.done := by
  unfold State.takeCkb
  rw [if_neg h]

/-- What BYTE can do when it answers next: refused; sentinel; or the branch of one parser state (R110). -/
theorem execByte_cases {b : Byte} {s t : State} (h : execByte b s = .next t) :
    (s.terr = true ∧ t = s.raise .transportErr) ∨
    (s.terr = false ∧ b = Config.sentinel ∧ t = s.restartFrame.done) ∨
    (s.terr = false ∧ b ≠ Config.sentinel ∧
      ((s.pstate = .idle ∧ t = s.done) ∨
       (s.pstate = .gotStx ∧ t = ((s.setDeclLen b).setPstate .gotLen).done) ∨
       (s.pstate = .gotLen ∧ t = (s.setPstate .gotSeq).done) ∨
       (s.pstate = .gotSeq ∧ t = (s.setPstate .gotSys).done) ∨
       (s.pstate = .gotSys ∧ t = (s.setPstate .gotComp).done) ∨
       (s.pstate = .gotComp ∧ t = (s.takeMsgId b).done) ∨
       (s.pstate = .inPayload ∧ s.payloadCount.toNat < Config.payloadCap ∧
         t = (((s.setPayload (s.payload.write s.payloadCount.toNat b)).setPayloadCount (s.payloadCount + 1)).setPstate
           (if s.payloadCount + 1 = s.declLen then .gotCka else .inPayload)).done) ∨
       (s.pstate = .gotCka ∧ t = (s.setPstate .gotCkb).done) ∨
       (s.pstate = .gotCkb ∧ s.msgId ≠ Config.targetId ∧ t = s.done) ∨
       (s.pstate = .gotCkb ∧ s.msgId = Config.targetId ∧
         t = (s.setPstate .idle).accept.1.respond (s.setPstate .idle).accept.2 0 true))) := by
  unfold execByte at h
  by_cases he : s.terr = true
  · rw [if_pos he] at h
    exact .inl ⟨he, (Host.Outcome.next.inj h).symm⟩
  rw [if_neg he] at h
  simp only [Bool.not_eq_true] at he
  by_cases hb : b = Config.sentinel
  · rw [if_pos hb] at h
    exact .inr (.inl ⟨he, hb, (Host.Outcome.next.inj h).symm⟩)
  rw [if_neg hb] at h
  refine .inr (.inr ⟨he, hb, ?_⟩)
  unfold State.parse at h
  cases hp : s.pstate <;> rw [hp] at h <;> simp only [Host.Outcome.next.injEq] at h <;>
    simp only [reduceCtorEq, false_and, true_and, false_or, or_false]
  case inPayload =>
    by_cases hc : s.payloadCount.toNat < Config.payloadCap
    · rw [State.takePayloadByte_of_lt s b hc, hp] at h
      exact ⟨hc, (Host.Outcome.next.inj h).symm⟩
    · simp [State.takePayloadByte, State.appendPayload_of_ge s b hc] at h
  case gotCkb =>
    unfold State.takeCkb at h
    by_cases hm : s.msgId = Config.targetId
    · rw [if_pos hm] at h
      exact .inr ⟨hm, h.symm⟩
    · rw [if_neg hm] at h
      exact .inl ⟨hm, h.symm⟩
  all_goals exact h.symm

/-- BYTE answers a next state but in one case: a payload byte with no address left. -/
theorem execByte_next_of {b : Byte} {s : State}
    (h : s.terr = true ∨ b = Config.sentinel ∨ s.pstate ≠ .inPayload ∨ s.payloadCount.toNat < Config.payloadCap) :
    ∃ t, execByte b s = .next t := by
  unfold execByte
  split
  · exact ⟨_, rfl⟩
  · split
    · exact ⟨_, rfl⟩
    · unfold State.parse
      cases hp : s.pstate
      case inPayload =>
        refine ⟨_, State.takePayloadByte_of_lt s b ?_⟩
        simp_all
      all_goals exact ⟨_, rfl⟩

/-- READ and every DECODE answer with a response and change nothing else. -/
theorem execRead_eq (addr : Byte) (s : State) : ∃ r, execRead addr s = .next (s.setRsp (some r)) := by
  unfold execRead
  split
  · exact ⟨_, rfl⟩
  · split <;> exact ⟨_, rfl⟩

/-- The host's field decode changes nothing but the response. -/
theorem State.decodeField_eq (s : State) (t : TypeTag) (lo hi : Byte) :
    ∃ r, s.decodeField t lo hi = s.setRsp (some r) := by
  unfold State.decodeField
  split <;> exact ⟨_, rfl⟩

/-- With an input presented, a step applies the oldest one to the state without it. -/
theorem step_of_cons {s : State} {i : Input} {rest : List Input} (h : s.inputs = i :: rest) :
    step s = applyInput i (s.setInputs rest) := by
  simp [step, State.takeInput, h]

/-- With nothing presented, a step clears the response and changes nothing else. -/
theorem step_of_nil {s : State} (h : s.inputs = []) : step s = .next (s.setRsp none) := by
  simp [step, State.takeInput, h, execIdle]

end Sys2Proof.Machine
end

