-- ==== Sys2Proof/Laws/PerInstr.lean ====
section
/-! SUPPORT. Statements for all operations, one lemma per constructor: the word of every operation lies in its row of
the opcode table (30_encoding.md R86). -/

namespace Sys2Proof.Laws.TableRow

/-- The word of an operation matches the operation's row. -/
def Statement (i : Instr) : Prop := i.rowMatches (encode i) = true

theorem byte (b : Byte) : Statement (.byte b) := by
  revert b; unfold Statement; decide

theorem rxerr : Statement .rxerr := by unfold Statement; decide

theorem read (addr : Byte) : Statement (.read addr) := by
  revert addr; unfold Statement; decide

/-- The upper half of a DECODE word is its OP and TAG, whatever the offsets. -/
theorem decode_row (tag : BitVec 3) (lo hi : Byte) :
    assemble 0x4 tag hi lo &&& 0xFFFF0000#32 = assemble 0x4 tag 0 0 := by
  apply BitVec.eq_of_getLsbD_eq
  intro k hk
  simp only [assemble, BitVec.getLsbD_and, BitVec.getLsbD_append]
  interval_cases k <;> simp

theorem decodeI16x2 (lo hi : Byte) : Statement (.decodeI16x2 lo hi) := by
  simp only [Statement, Instr.rowMatches, Instr.row, encode, decode_row]; decide

theorem decodeF32x2 (lo hi : Byte) : Statement (.decodeF32x2 lo hi) := by
  simp only [Statement, Instr.rowMatches, Instr.row, encode, decode_row]; decide

theorem decodeF32x1 (lo hi : Byte) : Statement (.decodeF32x1 lo hi) := by
  simp only [Statement, Instr.rowMatches, Instr.row, encode, decode_row]; decide

theorem decodeU8x1 (lo hi : Byte) : Statement (.decodeU8x1 lo hi) := by
  simp only [Statement, Instr.rowMatches, Instr.row, encode, decode_row]; decide

theorem decodeU64x1 (lo hi : Byte) : Statement (.decodeU64x1 lo hi) := by
  simp only [Statement, Instr.rowMatches, Instr.row, encode, decode_row]; decide

theorem reset : Statement .reset := by unfold Statement; decide

end Sys2Proof.Laws.TableRow
end

