-- ==== Sys2Proof/Laws/Run.lean ====
section
/-! SUPPORT. What an operation, an input and a run of inputs can do, said once over the whole of `exec`: the inversion of
`exec`, the BYTE that completes a frame and the one that does not, and runs cut in two. -/

namespace Sys2Proof.Machine

/-- What an operation other than BYTE can do when it answers next (10_state.md R53). -/
theorem exec_cases {i : Instr} {s t : State} (h : exec i s = .next t) :
    (∃ b, i = .byte b) ∨
    (i = .rxerr ∧ t = (s.setTerr true).raise .transportErr) ∨
    (i = .reset ∧ t = s.toReset.done) ∨
    (((∃ a, i = .read a) ∨ ∃ tag lo hi, i = Instr.decodeWith tag lo hi) ∧ ∃ r, t = s.setRsp (some r)) := by
  have field : ∀ tag lo hi, exec (Instr.decodeWith tag lo hi) s = .next t → ∃ r, t = s.setRsp (some r) := by
    intro tag lo hi h
    obtain ⟨r, hr⟩ := s.decodeField_eq tag lo hi
    have : exec (Instr.decodeWith tag lo hi) s = .next (s.decodeField tag lo hi) := by cases tag <;> rfl
    rw [this, hr] at h
    exact ⟨r, (Host.Outcome.next.inj h).symm⟩
  cases i with
  | byte b => exact .inl ⟨b, rfl⟩
  | rxerr => exact .inr (.inl ⟨rfl, (Host.Outcome.next.inj h).symm⟩)
  | reset => exact .inr (.inr (.inl ⟨rfl, (Host.Outcome.next.inj h).symm⟩))
  | read a =>
    obtain ⟨r, hr⟩ := execRead_eq a s
    have h : execRead a s = .next t := h
    rw [hr] at h
    exact .inr (.inr (.inr ⟨.inl ⟨a, rfl⟩, r, (Host.Outcome.next.inj h).symm⟩))
  | decodeI16x2 lo hi => exact .inr (.inr (.inr ⟨.inr ⟨.i16x2, lo, hi, rfl⟩, field .i16x2 lo hi h⟩))
  | decodeF32x2 lo hi => exact .inr (.inr (.inr ⟨.inr ⟨.f32x2, lo, hi, rfl⟩, field .f32x2 lo hi h⟩))
  | decodeF32x1 lo hi => exact .inr (.inr (.inr ⟨.inr ⟨.f32x1, lo, hi, rfl⟩, field .f32x1 lo hi h⟩))
  | decodeU8x1 lo hi => exact .inr (.inr (.inr ⟨.inr ⟨.u8x1, lo, hi, rfl⟩, field .u8x1 lo hi h⟩))
  | decodeU64x1 lo hi => exact .inr (.inr (.inr ⟨.inr ⟨.u64x1, lo, hi, rfl⟩, field .u64x1 lo hi h⟩))

/-- A BYTE that completes an accepted frame runs Accept (40_frame_parser.md R118). -/
theorem execByte_of_completesFrame {b : Byte} {s : State} (h : s.completesFrame b) :
    execByte b s = .next ((s.setPstate .idle).accept.1.respond (s.setPstate .idle).accept.2 0 true) := by
  obtain ⟨h1, h2, h3, h4⟩ := h
  rw [execByte_of_ne h1 h2, State.parse_gotCkb b h3, State.takeCkb_of_target h4]

/-- A BYTE that completes no accepted frame writes the parser's elements alone (10_state.md R53). -/
theorem execByte_of_not_completesFrame {b : Byte} {s t : State} (h : execByte b s = .next t)
    (hn : ¬ s.completesFrame b) :
    t = { s with
      pstate := t.pstate
      declLen := t.declLen
      msgId := t.msgId
      payloadCount := t.payloadCount
      payload := t.payload
      rsp := t.rsp } := by
  rcases execByte_cases h with ⟨_, rfl⟩ | ⟨_, _, rfl⟩ | ⟨h1, h2, h3⟩
  · rfl
  · rfl
  · rcases h3 with ⟨_, rfl⟩ | ⟨_, rfl⟩ | ⟨_, rfl⟩ | ⟨_, rfl⟩ | ⟨_, rfl⟩ | ⟨_, rfl⟩ | ⟨_, _, rfl⟩ | ⟨_, rfl⟩ |
      ⟨_, _, rfl⟩ | ⟨h4, h5, rfl⟩
    all_goals first | rfl | exact absurd ⟨h1, h2, h4, h5⟩ hn

/-- A run of two lists of inputs is the run of the first, then that of the second (20_memory.md R70). -/
theorem runInputs_append (is js : List Input) (s : State) :
    runInputs (is ++ js) s =
      match runInputs is s with
      | .fault r => .fault r
      | .refused r => .refused r
      | .next (t, rs) =>
        match runInputs js t with
        | .fault r => .fault r
        | .refused r => .refused r
        | .next (u, qs) => .next (u, rs ++ qs) := by
  induction is generalizing s with
  | nil =>
    simp only [List.nil_append, runInputs]
    cases runInputs js s <;> simp
  | cons i is ih =>
    simp only [List.cons_append, runInputs]
    cases applyInput i s with
    | fault r => rfl
    | refused r => rfl
    | next s' =>
      simp only [ih]
      cases runInputs is s' with
      | fault r => rfl
      | refused r => rfl
      | next p =>
        obtain ⟨t, rs⟩ := p
        simp only
        cases runInputs js t <;> simp

end Sys2Proof.Machine
end

