-- ==== Sys2Proof/Tests/Slice0.lean ====
section
/-! SUPPORT. Tests. Every expected value is the spec's: 30_encoding.md R94 and the vectors of 95_test_vectors.md, named
in each docstring. The second half holds, for every statement with hypotheses, states and operands that meet them. -/

namespace Sys2Proof.Tests

open Sys2Proof.Machine

/-! ### Decoding: words written out from R85-R87 -/

/-- V-ENC-1: OP 0x1, DATA 0xFE. -/
theorem test_decode_byte : decode 0b00010000000000000000000011111110#32 = .ok (.byte 0xFE) := by decide

/-- V-ENC-2: OP 0x2. -/
theorem test_decode_rxerr : decode 0b00100000000000000000000000000000#32 = .ok .rxerr := by decide

/-- V-ENC-4: OP 0x3, ADDR 0x11. -/
theorem test_decode_read : decode 0b00110000000000000000000000010001#32 = .ok (.read 0x11) := by decide

/-- V-DEC-4: OP 0x4, TAG 0, HI 24, LO 20. -/
theorem test_decode_i16x2 : decode 0b01000000000000000001100000010100#32 = .ok (.decodeI16x2 20 24) := by decide

/-- V-DEC-2: OP 0x4, TAG 1, HI 16, LO 8. -/
theorem test_decode_f32x2 : decode 0b01000000000000010001000000001000#32 = .ok (.decodeF32x2 8 16) := by decide

/-- V-DEC-3: OP 0x4, TAG 2, HI 20, LO 16. -/
theorem test_decode_f32x1 : decode 0b01000000000000100001010000010000#32 = .ok (.decodeF32x1 16 20) := by decide

/-- V-DEC-5: OP 0x4, TAG 3, HI 26, LO 25. -/
theorem test_decode_u8x1 : decode 0b01000000000000110001101000011001#32 = .ok (.decodeU8x1 25 26) := by decide

/-- V-ENC-9: OP 0x4, TAG 4, HI 255, LO 0. -/
theorem test_decode_u64x1 : decode 0b01000000000001001111111100000000#32 = .ok (.decodeU64x1 0 255) := by decide

/-- V-ENC-10: OP 0xF. -/
theorem test_decode_reset : decode 0b11110000000000000000000000000000#32 = .ok .reset := by decide

/-- Each check of R88 refuses an ill-formed word by name: (a) V-ENC-12, 13, 14; (b) V-ENC-3, 5, 8, 11, 15, 17; (c)
V-ENC-7 and the last reserved tag. -/
theorem test_decode_rejects :
    decode 0x00000000#32 = .error .reservedOp ∧ decode 0x50000000#32 = .error .reservedOp ∧
    decode 0xE0000000#32 = .error .reservedOp ∧
    decode 0x20000001#32 = .error .reservedBits ∧ decode 0x30000111#32 = .error .reservedBits ∧
    decode 0x40081008#32 = .error .reservedBits ∧ decode 0xF0000001#32 = .error .reservedBits ∧
    decode 0x10000100#32 = .error .reservedBits ∧ decode 0x3000FF00#32 = .error .reservedBits ∧
    decode 0x40051008#32 = .error .reservedTag ∧ decode 0x40070000#32 = .error .reservedTag := by decide

/-- Where two checks reject one word the earlier one names it (R89): bit 19 set and TAG 5. -/
theorem test_decode_precedence : decode 0x400D1008#32 = .error .reservedBits := by decide

/-- The table's numbering is the word's; a width above 32 bits with a high bit set is no command word. -/
theorem test_decodeTableWord :
    decodeTableWord 32 0x40011008 = some (.decodeF32x2 8 16) ∧ decodeTableWord 32 0x50000000 = none ∧
    decodeTableWord 40 0x1100000FE = none := by decide

/-! ### WellFormed: one ill-formed term for each check -/

/-- R88 (a): OP 0x0 and OP 0x5. -/
theorem test_wf_refuses_op : opAssigned 0x00000000#32 = false ∧ legalWord 0x50000000#32 = false := by decide

/-- R88 (b), one word for each OP. -/
theorem test_wf_refuses_bits :
    reservedBitsClear 0x10000100#32 = false ∧ reservedBitsClear 0x20000001#32 = false ∧
    reservedBitsClear 0x30000111#32 = false ∧ reservedBitsClear 0x40081008#32 = false ∧
    legalWord 0xF0000001#32 = false := by decide

/-- R88 (c). -/
theorem test_wf_refuses_tag : tagAssigned 0x40051008#32 = false ∧ legalWord 0x40051008#32 = false := by decide

/-- R93: `BYTES` with no byte and `FRAME` with 256 payload bytes. -/
theorem test_wf_refuses_pseudo :
    (Pseudo.bytes []).wf = false ∧ (Pseudo.frame 0 1 100 100 (List.replicate 256 0) 0 0).wf = false := by decide +kernel

/-! ### One step -/

/-- A projection of the next state, none where there is none. -/
def after {α : Type} (o : Host.Outcome State Fault Refusal) (f : State → α) : Option α :=
  match o with
  | .next t => some (f t)
  | .fault _ => none
  | .refused _ => none

/-- Cells from index 0 on, zeros left out. -/
def cellsFrom : Nat → List Byte → Memory
  | _, [] => []
  | a, b :: bs => if b = 0 then cellsFrom (a + 1) bs else (a, b) :: cellsFrom (a + 1) bs

/-- PAY1 of 95_test_vectors.md. -/
def pay1 : Memory :=
  cellsFrom 0 ([0x00, 0x10, 0xA5, 0xD4, 0xE8, 0x00, 0x00, 0x00, 0x00, 0x00, 0xC0, 0x3F, 0x00, 0x00, 0x00, 0xC0] ++
    [0x00, 0x00, 0xA0, 0x3F, 0x0A, 0x00, 0xFB, 0xFF, 0x00, 0xC8])

/-- The parser in state p, with a declared length, a message identifier, a payload count and a payload. -/
def parserAt (p : PState) (len msg count : Byte) (m : Memory) : State :=
  { State.reset with pstate := p, declLen := len, msgId := msg, payloadCount := count, payload := m }

/-- A target frame of 26 payload bytes waiting for its CKB byte. -/
def awaitingCkb : State := parserAt .gotCkb 26 100 26 pay1

/-- V-BYTE-11: IN_PAYLOAD, DECL_LEN 26, PAYLOAD_COUNT 25, byte 0xC8. -/
theorem test_byte_last_payload_byte :
    after (exec (.byte 0xC8) (parserAt .inPayload 26 100 25 []))
      (fun t => (t.pstate, t.payloadCount, t.payload, t.rsp)) =
    some (.gotCka, 26, [(25, 0xC8)], some ⟨.ok, 0, false⟩) := by decide

/-- V-BYTE-14 and V-L1-3: the CKB byte of F1 from the reset driver state. -/
theorem test_byte_accept :
    after (exec (.byte 0x00) awaitingCkb) State.statusWord = some 0x30 ∧
    after (exec (.byte 0x00) awaitingCkb) State.rsp = some (some ⟨.ok, 0, true⟩) ∧
    after (exec (.byte 0x00) awaitingCkb) State.reading =
      some (true, 0x000000E8D4A51000, 0x3FC00000, 0xC0000000, 0x3FA00000, 0x000A, 0xFFFB, 0xC8) := by decide

/-- R210: TERR set in the middle of a frame, the parser frozen. -/
theorem test_rxerr :
    after (exec .rxerr (parserAt .inPayload 26 100 4 [])) (fun t => (t.statusWord, t.payloadCount, t.rsp)) =
      some (0x86, 4, some ⟨.transportErr, 0, false⟩) := by decide

/-- V-READ-3, V-READ-4, V-READ-5, from the reset state. -/
theorem test_read_reset :
    after (exec (.read 0x08) State.reset) State.rsp = some (some ⟨.ok, 0x0000000186A064FE, false⟩) ∧
    after (exec (.read 0x10) State.reset) State.rsp = some (some ⟨.accessErr, 0, false⟩) ∧
    after (exec (.read 0x15) State.reset) State.rsp = some (some ⟨.addrErr, 0, false⟩) := by decide

/-- V-L1-3: RAW_FLOW of 10 and -5, not sign-extended. -/
theorem test_read_raw_flow :
    after (exec (.read 0x13) { State.reset with valid := true, rawFlowX := 0x000A, rawFlowY := 0xFFFB }) State.rsp =
      some (some ⟨.ok, 0x00000000FFFB000A, false⟩) := by decide

/-- V-DEC-10 (odd offset) and V-DEC-11 (hi < lo). -/
theorem test_decodeI16x2 :
    after (exec (.decodeI16x2 21 25) awaitingCkb) State.rsp = some (some ⟨.ok, 0x0000000000FFFB00, false⟩) ∧
    after (exec (.decodeI16x2 24 20) awaitingCkb) State.rsp = some (some ⟨.decodeErr, 0, false⟩) := by decide

/-- V-DEC-2 and V-DEC-14 (lo = hi). -/
theorem test_decodeF32x2 :
    after (exec (.decodeF32x2 8 16) awaitingCkb) State.rsp = some (some ⟨.ok, 0xC00000003FC00000, false⟩) ∧
    after (exec (.decodeF32x2 8 8) awaitingCkb) State.rsp = some (some ⟨.decodeErr, 0, false⟩) := by decide

/-- V-DEC-3 and V-DEC-8 (width). -/
theorem test_decodeF32x1 :
    after (exec (.decodeF32x1 16 20) awaitingCkb) State.rsp = some (some ⟨.ok, 0x000000003FA00000, false⟩) ∧
    after (exec (.decodeF32x1 8 16) awaitingCkb) State.rsp = some (some ⟨.decodeErr, 0, false⟩) := by decide

/-- V-DEC-5 (hi = PAYLOAD_COUNT) and V-DEC-7 (beyond it). -/
theorem test_decodeU8x1 :
    after (exec (.decodeU8x1 25 26) awaitingCkb) State.rsp = some (some ⟨.ok, 0xC8, false⟩) ∧
    after (exec (.decodeU8x1 26 27) awaitingCkb) State.rsp = some (some ⟨.decodeErr, 0, false⟩) := by decide

/-- V-DEC-12 and V-DEC-9. -/
theorem test_decodeU64x1 :
    after (exec (.decodeU64x1 18 26) awaitingCkb) State.rsp = some (some ⟨.ok, 0xC800FFFB000A3FA0, false⟩) ∧
    after (exec (.decodeU64x1 20 28) awaitingCkb) State.rsp = some (some ⟨.decodeErr, 0, false⟩) := by decide

/-- R211: RESET leaves TERR = 1 and a partial frame; STATUS then reads 0. -/
theorem test_reset :
    after (exec .reset { parserAt .inPayload 26 100 4 [] with terr := true, sampleCount := 7, accX := 1 })
      (fun t => (t.statusWord, t.payloadCount, t.sampleCount, t.accX, t.rsp)) =
    some (0, 0, 0, 0, some ⟨.ok, 0, false⟩) := by decide

/-- The word placed for the next fetch runs in the very next step: V-ENC-1 from the reset state. -/
theorem test_withFetchWord :
    after (step (State.reset.withFetchWord 32 0x100000FE)) (fun t => (t.pstate, t.inputs, t.rsp)) =
      some (.gotStx, [], some ⟨.ok, 0, false⟩) := by decide

/-! ### The floating-point primitives: V-INT -/

/-- V-INT-1, V-INT-3, V-INT-4, V-INT-5: flow 2.0 over 50000, 99999 and -50000 µs; flow -1.0 over 0 µs. -/
theorem test_accumulated :
    accumulated 0 0x40000000 50000 = 0x3FB999999999999A#64 ∧ accumulated 0 0x40000000 99999 = 0x3FC99988D2A1F8E4#64 ∧
    accumulated 0 0x40000000 (-50000) = 0xBFB999999999999A#64 ∧ accumulated 0 0xBF800000 0 = 0x0000000000000000#64 := by
  decide +kernel

/-- V-INT-7 to V-INT-10: infinity over 0 and 50000 µs, a NaN, the smallest subnormal. -/
theorem test_accumulated_special :
    accumulated 0 0x7F800000 0 = 0x7FF8000000000000#64 ∧ accumulated 0 0x7F800000 50000 = 0x7FF0000000000000#64 ∧
    accumulated 0 0x7FC00001 50000 = 0x7FF8000000000000#64 ∧ accumulated 0 0x00000001 50000 = 0x365999999999999A#64 := by
  decide +kernel

/-- V-INT-11: the interval -(2^64 - 1). -/
theorem test_accumulated_wrap :
    accumulated 0 0x3F800000 (intervalUs 0 0xFFFFFFFFFFFFFFFF) = 0xC2B0C6F7A0B5ED8D#64 := by decide +kernel

/-- V-INT-15: saturation. -/
theorem test_saturation :
    saturatingSucc 0xFFFFFFFFFFFFFFFF = 0xFFFFFFFFFFFFFFFF#64 ∧ saturatingSucc 0xFFFFFFFFFFFFFFFE = 0xFFFFFFFFFFFFFFFF#64 := by
  decide

/-! ### Witnesses: for each statement with hypotheses, states and operands that meet them

Each theorem is named after the statement it serves; a statement with several clauses has one for each, at the ends of
the clause's range. -/

/-- A completed frame of n payload bytes, the reset driver state. -/
def frameOf (n : Byte) : State := parserAt .gotCkb n 100 n pay1

/-- The same after an earlier decoded frame at time prev. -/
def laterFrame (prev : BitVec 64) : State := { awaitingCkb with valid := true, prevValid := true, prevTimeUs := prev, timeUs := prev }

theorem witness_EncodedOperationDecodesBack : (Instr.decodeU64x1 0 255).wf = true ∧ (Instr.byte 0xFE).wf = true := by decide

theorem witness_DecodedWordIsItsEncoding : decode 0x4004FF00#32 = .ok (.decodeU64x1 0 255) := by decide

/-- Each check of R88 at both ends of its range, and the words next to the range that it lets pass. -/
theorem witness_IllegalWordsAnswerCmdErr :
    rejectsOp 0x00000000#32 ∧ rejectsOp 0x50000000#32 ∧ rejectsOp 0xE0000000#32 ∧ ¬ rejectsOp 0x40000000#32 ∧
    ¬ rejectsOp 0xF0000000#32 ∧
    (¬ rejectsOp 0x10000100#32 ∧ rejectsBits 0x10000100#32) ∧ (¬ rejectsOp 0x40080000#32 ∧ rejectsBits 0x40080000#32) ∧
    ¬ rejectsBits 0x4007FFFF#32 ∧
    (¬ rejectsOp 0x40050000#32 ∧ ¬ rejectsBits 0x40050000#32 ∧ rejectsTag 0x40050000#32) ∧ rejectsTag 0x4007FFFF#32 ∧
    ¬ rejectsTag 0x4004FFFF#32 ∧ decode 0x40050000#32 = .error .reservedTag := by
  unfold rejectsOp rejectsBits rejectsTag
  refine ⟨?_, ?_, ?_, ?_, ?_, ⟨?_, ?_⟩, ⟨?_, ?_⟩, ?_, ⟨?_, ?_, ?_⟩, ?_, ?_, ?_⟩ <;> decide

theorem witness_OpcodeRowsAreDisjointAndTotal :
    (Instr.read 0).rowMatches 0x30000011#32 = true ∧ (Instr.read 5).rowMatches 0x30000011#32 = true := by decide

/-- Payloads of 0 and of 255 bytes. -/
theorem witness_PseudoInstructionsExpand :
    (Pseudo.frame 0 1 100 100 [] 0 0).wf = true ∧ (Pseudo.frame 0 1 100 100 (List.replicate 255 0) 0 0).wf = true := by
  decide +kernel

theorem witness_CanonicalPayloads :
    Memory.wf [(0, 1), (254, 7)] ∧ ∀ a, Memory.read [(0, 1), (254, 7)] a = Memory.read [(0, 1), (254, 7)] a :=
  ⟨by decide, fun _ => rfl⟩

/-- A decode that answers. -/
theorem witness_PayloadAboveCount_decode : awaitingCkb.fieldDecode .u8x1 25 26 = some 0xC8 := by decide

/-- Two states that differ at index 1, PAYLOAD_COUNT being 1, and a step of each. -/
theorem witness_PayloadAboveCount_next :
    let s := { parserAt .gotCkb 1 100 1 [(0, 5)] with inputs := [.command 0x10000000#32] }
    let u := { parserAt .gotCkb 1 100 1 [(0, 5), (1, 9)] with inputs := [.command 0x10000000#32] }
    s.payload.wf ∧ u.payload.wf ∧ s ≠ u ∧ s.SameBelowCount u ∧ ∃ s', step s = .next s' :=
  ⟨by decide, by decide, by decide, ⟨rfl, by decide⟩, _, rfl⟩

/-- The same at the one fault: a payload byte with PAYLOAD_COUNT = 255. -/
theorem witness_PayloadAboveCount_fault :
    let s := { parserAt .inPayload 5 100 255 [(0, 5)] with inputs := [.command 0x10000000#32] }
    s.payload.wf ∧ s.SameBelowCount s ∧ step s = .fault .payloadAddress :=
  ⟨by decide, ⟨rfl, fun _ _ => rfl⟩, rfl⟩

theorem witness_BytesAfterReset : ∀ b ∈ [0x00#8, 0xFD#8, 0xFF#8], b ≠ 0xFE#8 := by decide

theorem witness_ByteIsRefusedWhileTerr :
    let s := { State.reset with terr := true }
    s.terr = true ∧ ∃ t, exec .reset s = .next t ∧ t.terr = false :=
  ⟨rfl, _, rfl, rfl⟩

theorem witness_SentinelRestartsFraming : (parserAt .inPayload 26 100 6 []).terr = false := rfl

theorem witness_HeaderBytes :
    (0xFD#8 ≠ 0xFE#8 ∧ 0xFF#8 ≠ 0xFE#8) ∧ ∀ p ∈ [PState.idle, .gotStx, .gotLen, .gotSeq, .gotSys, .gotCka],
      (parserAt p 0 0 0 []).terr = false ∧ (parserAt p 0 0 0 []).pstate = p := by decide

/-- Declared lengths 1 and 255, and 0. -/
theorem witness_MessageIdByte :
    (∀ len ∈ [1#8, 255#8], (parserAt .gotComp len 0 0 []).terr = false ∧ (parserAt .gotComp len 0 0 []).pstate = .gotComp ∧
      1 ≤ (parserAt .gotComp len 0 0 []).declLen.toNat) ∧
    (parserAt .gotComp 0 0 0 []).terr = false ∧ (parserAt .gotComp 0 0 0 []).declLen = 0 := by decide

/-- PAYLOAD_COUNT 0 and 254, the last byte of a frame among them. -/
theorem witness_PayloadByteIsAppended :
    ∀ n ∈ [0#8, 254#8], (parserAt .inPayload 255 100 n []).terr = false ∧
      (parserAt .inPayload 255 100 n []).pstate = .inPayload ∧ (parserAt .inPayload 255 100 n []).payload.wf ∧
      (parserAt .inPayload 255 100 n []).payloadCount.toNat < 255 := by decide

/-- Both sides of the equivalence: the state that faults, and one that does not. -/
theorem witness_OnlyAPayloadByteAtIndex255Stops :
    exec (.byte 0x00) (parserAt .inPayload 255 100 255 []) = .fault .payloadAddress ∧
    ∃ t, exec (.byte 0x00) (parserAt .inPayload 255 100 254 []) = .next t :=
  ⟨rfl, _, rfl⟩

theorem witness_NonTargetFrame_bytes :
    (parserAt .gotCkb 26 101 26 []).terr = false ∧ (parserAt .gotCkb 26 101 26 []).pstate = .gotCkb ∧
    (parserAt .gotCkb 26 101 26 []).msgId ≠ 100#8 ∧ ∀ b ∈ [0x00#8, 0x1A#8, 0xFF#8], b ≠ 0xFE#8 := by decide

theorem witness_NonTargetFrame_leaves :
    ∃ t, exec (.byte 0xFE) (parserAt .gotCkb 26 101 26 []) = .next t ∧ t.pstate ≠ .gotCkb :=
  ⟨_, rfl, by decide⟩

/-- A completing byte, with the payload at both sides of 26 and at both ends. -/
theorem witness_completesFrame :
    ∀ n ∈ [0#8, 25#8, 26#8, 255#8], (frameOf n).completesFrame 0x00 ∧
      ((frameOf n).payloadCount.toNat < 26 ↔ n.toNat < 26) ∧ (frameOf n).prevValid = false := by
  unfold State.completesFrame
  decide

/-- The second clause of AcceptedFrameLatchesTheReading. -/
theorem witness_AcceptedFrame_valid :
    awaitingCkb.valid = false ∧ ∃ t, exec (.byte 0x00) awaitingCkb = .next t ∧ t.valid = true :=
  ⟨rfl, _, rfl, by decide⟩

/-- A payload that differs at byte 24 and at byte 26 alone. -/
theorem witness_UndecodedPayloadBytes :
    let m := (pay1.write 24 0x55).write 26 0x01
    awaitingCkb.completesFrame 0x00 ∧ m ≠ awaitingCkb.payload ∧
    (∀ a, a ≠ 24 → a < 26 → m.read a = awaitingCkb.payload.read a) ∧ ∃ t, exec (.byte 0x00) awaitingCkb = .next t := by
  refine ⟨⟨rfl, by decide, rfl, rfl⟩, by decide, ?_, _, rfl⟩
  intro a h1 h2
  interval_cases a <;> first | rfl | exact absurd rfl h1

/-- A count of 0, of 2^64 - 2 and of 2^64 - 1 on a completing byte, and a byte that completes nothing. -/
theorem witness_SampleCountSaturates :
    awaitingCkb.sampleCount.toNat < 2 ^ 64 - 1 ∧
    ({ awaitingCkb with sampleCount := 0xFFFFFFFFFFFFFFFE#64 }).sampleCount.toNat < 2 ^ 64 - 1 ∧
    ({ awaitingCkb with sampleCount := 0xFFFFFFFFFFFFFFFF#64 }).sampleCount.toNat = 2 ^ 64 - 1 ∧
    (∃ t, exec (.byte 0x00) { awaitingCkb with sampleCount := 0xFFFFFFFFFFFFFFFF#64 } = .next t) ∧
    Instr.byte 0x00 ≠ .reset ∧ (∃ t, exec (.byte 0x00) State.reset = .next t) ∧
    ¬ ∃ b, Instr.byte 0x00 = .byte b ∧ State.reset.completesFrame b :=
  ⟨by decide, by norm_num, by norm_num, execByte_next_of (.inr (.inr (.inl (by decide)))), by decide, ⟨_, rfl⟩,
    fun ⟨_, _, h⟩ => absurd h.2.2.1 (by decide)⟩

/-- PAY1's time is T; intervals of 99999 (below GAP_US), 100000 (at it) and -1. -/
theorem witness_GapTest :
    ∀ p ∈ [((99999 : ℤ), 0x000000E8D4A51000#64 - 99999), (100000, 0x000000E8D4A51000#64 - 100000), (-1, 0x000000E8D4A51001#64)],
      (laterFrame p.2).pstate = .gotCkb ∧ (laterFrame p.2).msgId = 100 ∧ (laterFrame p.2).terr = false ∧
      26 ≤ (laterFrame p.2).payloadCount.toNat ∧ (laterFrame p.2).prevValid = true ∧
      p.1 = ((laterFrame p.2).payload.readLE 0 8 : ℤ) - ((laterFrame p.2).prevTimeUs.toNat : ℤ) := by decide +kernel

/-- The ends of the unmapped and of the gated addresses; VALID at both values. -/
theorem witness_ReadAnswers :
    (∀ a ∈ [0x09#8, 0x0F#8, 0x15#8, 0xFF#8], (9 ≤ a.toNat ∧ a.toNat ≤ 15) ∨ 21 ≤ a.toNat) ∧
    (∀ a ∈ [0x10#8, 0x14#8], 16 ≤ a.toNat ∧ a.toNat ≤ 20) ∧ State.reset.valid = false ∧ (laterFrame 0).valid = true := by
  decide

theorem witness_ConfigWordFields :
    State.reset.gapUs = 100000#32 ∧ ∃ t, exec .reset State.reset = .next t := ⟨rfl, _, rfl⟩

theorem witness_ReadingWordLanes :
    State.reset.valid = false ∧ (∀ a ∈ [0x11#8, 0x14#8], a ∈ [0x11#8, 0x12#8, 0x13#8, 0x14#8]) ∧
    (laterFrame 0).valid = true := by decide

theorem witness_ReadsHaveNoSideEffect :
    (∃ a, Instr.read 0x10 = .read a) ∧ ∃ tag lo hi, Instr.decodeU8x1 25 26 = Instr.decodeWith tag lo hi :=
  ⟨⟨_, rfl⟩, .u8x1, 25, 26, rfl⟩

/-- PAYLOAD_COUNT 7, 8, 25 and 26, the ends of the clauses of SchemaDecodeFailsExactlyBelow26. -/
theorem witness_SchemaDecode :
    (frameOf 7).payloadCount.toNat < 8 ∧ ¬ (frameOf 8).payloadCount.toNat < 8 ∧ (frameOf 25).payloadCount.toNat < 26 ∧
    26 ≤ (frameOf 26).payloadCount.toNat := by decide

theorem witness_LanesAreTheHalves :
    awaitingCkb.fieldDecode .u64x1 0 8 = some 0x000000E8D4A51000 ∧
    awaitingCkb.fieldDecode .f32x2 8 (8 + 8) = some 0xC00000003FC00000 ∧
    awaitingCkb.fieldDecode .i16x2 20 (20 + 4) = some 0x00000000FFFB000A := by decide

/-- A BYTE, an error, and an operation that is neither READ nor DECODE. -/
theorem witness_EveryOperationGivesOneResponse :
    (∃ t, exec (.byte 0x00) awaitingCkb = .next t) ∧ (∃ t, exec (.read 0xFF) State.reset = .next t) ∧
    (∀ a, Instr.rxerr ≠ .read a) ∧ ∀ tag lo hi, Instr.rxerr ≠ Instr.decodeWith tag lo hi :=
  ⟨⟨_, rfl⟩, ⟨_, rfl⟩, fun _ h => Instr.noConfusion h, fun tag _ _ h => by cases tag <;> cases h⟩

theorem witness_ResponseCodePriority :
    (∃ t, applyWord 0x40051008#32 awaitingCkb = .next t) ∧ (∃ t, applyWord 0x100000FE#32 awaitingCkb = .next t) ∧
    decode 0x100000FE#32 = .ok (.byte 0xFE) ∧ awaitingCkb.terr = false :=
  ⟨⟨_, rfl⟩, ⟨_, rfl⟩, by decide, rfl⟩

theorem witness_OnlyAcceptAndReset :
    (∃ t, exec (.byte 0x00) State.reset = .next t) ∧ ¬ State.reset.completesFrame 0x00 ∧
    (∀ i, decode 0x40051008#32 ≠ .ok i) ∧ ∃ t, applyWord 0x40051008#32 State.reset = .next t :=
  ⟨⟨_, rfl⟩, fun h => absurd h.2.2.1 (by decide),
    (fun i h => by rw [show decode 0x40051008#32 = .error Illegal.reservedTag from rfl] at h; cases h), ⟨_, rfl⟩⟩

/-- A read that sees TERR, one that does not, and a DECODE. -/
theorem witness_RxerrSetsTerr :
    (∃ a, Instr.read 0x10 = .read a) ∧ Instr.read 0x10 ≠ .read 0x00 ∧
    ∃ tag lo hi, Instr.decodeU8x1 25 26 = Instr.decodeWith tag lo hi :=
  ⟨⟨_, rfl⟩, by decide, .u8x1, 25, 26, rfl⟩

/-- A step that sets VALID, and one from a state with every flag set. -/
theorem witness_ValidPrevValidTerrAndCount :
    let s := { awaitingCkb with inputs := [.command 0x10000000#32] }
    let u := { laterFrame 0 with terr := true, inputs := [.command 0x30000000#32] }
    (∃ t, step s = .next t ∧ t.valid = true) ∧ s.valid = false ∧
    (∀ i, s.inputs.head? = some i → i.isReset = false) ∧
    (∃ t, step u = .next t) ∧ u.valid = true ∧ u.prevValid = true ∧ u.terr = true ∧
    (∀ i, u.inputs.head? = some i → i.isReset = false) := by
  refine ⟨⟨_, rfl, by decide⟩, rfl, ?_, ⟨_, rfl⟩, rfl, rfl, rfl, ?_⟩ <;>
    (intro i h; obtain rfl := Option.some.inj h; decide)

/-- States that meet every invariant, each at the ends of one clause: (b), (f) with PAYLOAD_COUNT 254 of 255; (c) and (g)
with a reading; (d); (e) after an accept. -/
theorem witness_Inv :
    Inv (parserAt .inPayload 255 100 254 []) ∧ Inv (parserAt .inPayload 1 100 0 []) ∧
    Inv (laterFrame 7) ∧ Inv (parserAt .gotStx 26 100 0 pay1) ∧ Inv (parserAt .idle 26 100 26 pay1) := by
  refine ⟨?_, ?_, ?_, ?_, ?_⟩ <;> constructor <;> decide

/-- A step from such a state. -/
theorem witness_StepKeepsTheInvariants : ∃ t, step (laterFrame 7) = .next t := ⟨_, rfl⟩

theorem witness_StepRuns :
    decode 0x30000000#32 = .ok (.read 0x00) ∧ decode 0x00000000#32 = .error .reservedOp ∧
    ({ State.reset with inputs := [.command 0x30000000#32] }).inputs = .command 0x30000000#32 :: [] ∧
    ({ State.reset with inputs := [.resetPin] }).inputs = .resetPin :: [] ∧ State.reset.inputs = [] := by decide

theorem witness_StepsAreTheRun :
    let is : List Input := [.command 0x100000FE#32, .resetPin]
    let rest : List Input := [.command 0x00000000#32]
    ({ State.reset with inputs := is ++ rest }).inputs = is ++ rest := rfl

theorem witness_SameStepOrder :
    decode 0xF0000000#32 = .ok .reset ∧ decode 0x30000010#32 = .ok (.read 0x10) ∧
    decode 0x4004FF00#32 = .ok (Instr.decodeWith .u64x1 0 255) := by decide

/-- No byte of a frame of zeros is a sentinel, but for LEN. -/
theorem zeros_no_sentinel {msg : Byte} {n : Nat} (hm : msg ≠ 0xFE#8) (hn : BitVec.ofNat 8 n ≠ 0xFE#8) :
    ∀ b ∈ (frameBytes 0 1 100 msg (List.replicate n 0) 0 0).tail, b ≠ 0xFE#8 := by
  intro b hb
  simp only [frameBytes, List.length_replicate, List.cons_append, List.nil_append, List.tail_cons, List.mem_cons,
    List.mem_append, List.mem_replicate, List.not_mem_nil, or_false] at hb
  rcases hb with rfl | rfl | rfl | rfl | rfl | (⟨_, rfl⟩ | rfl | rfl) <;> first | assumption | decide

/-- Payloads of 0, 25, 26 and 255 bytes, target and not. -/
theorem witness_WholeFrame :
    State.reset.terr = false ∧ State.reset.payload.wf ∧
    ∀ n ∈ [0, 25, 26, 255], ∀ msg ∈ [100#8, 101#8], (List.replicate n 0#8).length ≤ 255 ∧
      ∀ b ∈ (frameBytes 0 1 100 msg (List.replicate n 0) 0 0).tail, b ≠ 0xFE#8 := by
  refine ⟨rfl, by decide, fun n hn msg hm => ⟨?_, zeros_no_sentinel ?_ ?_⟩⟩
  · rw [List.length_replicate]; revert n; decide
  · revert msg; decide
  · revert n; decide

/-- Two states that agree on the driver and differ in the parser, and bytes that hold a LEN and a MSGID byte. -/
theorem witness_SentinelResynchronises :
    let s₁ := State.reset
    let s₂ := parserAt .gotCkb 26 101 26 pay1
    let w := [0x1A#8, 0#8, 1#8, 100#8, 100#8]
    s₁ ≠ s₂ ∧ s₁.terr = false ∧ s₂.terr = false ∧ s₁.payload.wf ∧ s₂.payload.wf ∧
    (∃ len, len ≠ 0xFE#8 ∧ [0xFE#8, len] <:+: 0xFE#8 :: w) ∧
    (∃ len seq sys comp mid, 0xFE#8 ∉ [len, seq, sys, comp, mid] ∧
      [0xFE#8, len, seq, sys, comp, mid] <:+: 0xFE#8 :: w) ∧
    s₁.reading = s₂.reading ∧ s₁.sampleCount = s₂.sampleCount ∧ s₁.derr = s₂.derr ∧ s₁.prev = s₂.prev ∧
    s₁.gapUs = s₂.gapUs ∧ s₁.accX = s₂.accX ∧ s₁.accY = s₂.accY := by
  refine ⟨by decide, rfl, rfl, by decide, by decide, ⟨0x1A, by decide, [], [0, 1, 100, 100], rfl⟩,
    ⟨0x1A, 0, 1, 100, 100, by decide, [], [], rfl⟩, rfl, rfl, rfl, rfl, rfl, rfl, rfl⟩

/-- PAY1's values, with no byte and with 229 bytes after the schema. -/
theorem witness_EncodedReadingRoundTrips :
    State.reset.terr = false ∧ State.reset.payload.wf ∧
    ∀ n ∈ [0, 229], 26 + (List.replicate n 0#8).length ≤ 255 ∧
      ∀ b ∈ (frameBytes 0 1 100 100 (schemaPayload 0x000000E8D4A51000 0x3FC00000 0xC0000000 0x3FA00000 0x000A 0xFFFB 0 0xC8
        (List.replicate n 0)) 0 0).tail, b ≠ 0xFE#8 := by
  refine ⟨rfl, by decide, fun n hn => ⟨?_, fun b hb => ?_⟩⟩
  · rw [List.length_replicate]; revert n; decide
  have pay : ∀ b ∈ schemaPayload 0x000000E8D4A51000 0x3FC00000 0xC0000000 0x3FA00000 0x000A 0xFFFB 0 0xC8 [],
    b ≠ 0xFE#8 := by decide
  have len : ∀ n ∈ [0, 229], BitVec.ofNat 8 (26 + n) ≠ 0xFE#8 := by decide
  have app : schemaPayload 0x000000E8D4A51000 0x3FC00000 0xC0000000 0x3FA00000 0x000A 0xFFFB 0 0xC8 (List.replicate n 0) =
      schemaPayload 0x000000E8D4A51000 0x3FC00000 0xC0000000 0x3FA00000 0x000A 0xFFFB 0 0xC8 [] ++ List.replicate n 0 := by
    simp [schemaPayload]
  have l26 : (schemaPayload 0x000000E8D4A51000 0x3FC00000 0xC0000000 0x3FA00000 0x000A 0xFFFB 0 0xC8 []).length = 26 := rfl
  rw [app] at hb
  simp only [frameBytes, List.length_append, l26, List.length_replicate, List.cons_append, List.nil_append,
    List.tail_cons, List.mem_cons, List.mem_append, List.mem_replicate, List.not_mem_nil, or_false] at hb
  rcases hb with rfl | rfl | rfl | rfl | rfl | ((h | ⟨_, rfl⟩) | rfl | rfl)
  · exact len n hn
  all_goals first | exact pay b h | decide

theorem witness_EqualCounts :
    (∀ i ∈ [Input.command 0x30000004#32], i.isReset = false) ∧
    ∃ t rs, runInputs [.command 0x30000004#32] State.reset = .next (t, rs) ∧
      t.sampleCount = State.reset.sampleCount ∧ State.reset.sampleCount.toNat < 2 ^ 64 - 1 :=
  ⟨by decide, _, _, rfl, rfl, by decide⟩

/-- A NaN, both infinities, the smallest subnormal and -0. -/
theorem witness_WideningToBinary64 :
    unpack32 0x7FC00001#32 = .nan ∧ unpack32 0x7F800000#32 = .inf false ∧ unpack32 0xFF800000#32 = .inf true ∧
    (∃ v, (unpack32 0x00000001#32).toRat = some v) ∧ ∃ v, (unpack32 0x80000000#32).toRat = some v :=
  ⟨by decide, by decide, by decide, ⟨_, rfl⟩, _, rfl⟩

theorem witness_IntegerToBinary64 : |(2 ^ 53 : ℤ)| ≤ 2 ^ 53 ∧ |-(2 ^ 53 : ℤ)| ≤ 2 ^ 53 := by norm_num

/-- 1 and -1: finite, not zero, with an exact zero sum. -/
theorem witness_finite_operands :
    ∃ x y : ℚ, (unpack64 0x3FF0000000000000#64).toRat = some x ∧ (unpack64 0xBFF0000000000000#64).toRat = some y ∧
      y ≠ 0 ∧ x + y = 0 :=
  have one : unpack64 0x3FF0000000000000#64 = .fin false (2 ^ 52) (-52) := by decide
  have minusOne : unpack64 0xBFF0000000000000#64 = .fin true (2 ^ 52) (-52) := by decide
  ⟨_, _, by rw [one]; rfl, by rw [minusOne]; rfl, by norm_num, by norm_num⟩

/-- Both infinities beside the smallest subnormal, which is not zero, and -0. -/
theorem witness_infinite_operands :
    unpack64 0x7FF0000000000000#64 = .inf false ∧ unpack64 0xFFF0000000000000#64 = .inf true ∧
    (∃ y : ℚ, (unpack64 0x0000000000000001#64).toRat = some y ∧ y ≠ 0) ∧
    (unpack64 0x8000000000000000#64).toRat = some 0 :=
  have small : unpack64 0x0000000000000001#64 = .fin false 1 (-1074) := by decide
  have minusZero : unpack64 0x8000000000000000#64 = .fin true 0 (-1074) := by decide
  ⟨by decide, by decide, ⟨_, by rw [small]; rfl, by simp⟩, by rw [minusZero]; simp [FloatVal.toRat]⟩

/-- A NaN, both infinities and both zeros. -/
theorem witness_NaNResults :
    unpack64 0x7FF8000000000001#64 = .nan ∧ unpack64 0x7FF0000000000000#64 = .inf false ∧
    unpack64 0xFFF0000000000000#64 = .inf (!false) ∧ (unpack64 0x0000000000000000#64).toRat = some 0 ∧
    (unpack64 0x8000000000000000#64).toRat = some 0 :=
  have zero : unpack64 0x0000000000000000#64 = .fin false 0 (-1074) := by decide
  have minusZero : unpack64 0x8000000000000000#64 = .fin true 0 (-1074) := by decide
  ⟨by decide, by decide, by decide, by rw [zero]; simp [FloatVal.toRat], by rw [minusZero]; simp [FloatVal.toRat]⟩

theorem witness_NaNAccumulator :
    let s := { State.reset with accX := 0x7FF8000000000000#64, accY := 0x7FF8000000000000#64 }
    unpack64 s.accX = .nan ∧ unpack64 s.accY = .nan ∧ (∀ i, s.inputs.head? = some i → i.isReset = false) ∧
    ∃ t, step s = .next t :=
  ⟨by decide, by decide, fun _ h => absurd h (by simp [State.reset]), _, rfl⟩

end Sys2Proof.Tests
end

section
/-! SUPPORT. What a command word does once its decoding is known, and the statements of family 00_scope: one step runs the
operation its oldest presented word decodes to. -/

namespace Sys2Proof.Machine

/-- A word that decodes runs its operation (30_encoding.md R91). -/
theorem applyWord_of_decode_ok {w : Word} {i : Instr} (h : decode w = .ok i) (s : State) :
    applyWord w s = exec i s := by
  simp only [applyWord, h]

/-- A word that does not decode is ILLEGAL: CMD_ERR and no state change, whichever check failed (30_encoding.md R88). -/
theorem applyWord_of_decode_error {w : Word} {e : Illegal} (h : decode w = .error e) (s : State) :
    applyWord w s = .next (s.raise .cmdErr) := by
  simp only [applyWord, h, execIllegal]

/-- A step with a command word in front applies that word to the state without it. -/
theorem step_of_command {s : State} {w : Word} {rest : List Input} (h : s.inputs = .command w :: rest) :
    step s = applyWord w (s.setInputs rest) :=
  step_of_cons h

/-- Settles O47, by the four inputs a step can find in front: a legal word, an illegal word, the pin, none. -/
theorem stepRunsTheDecodedOperation : Obligations.StepRunsTheDecodedOperation := by
  refine ⟨fun s w rest i hs hw => ?legal, fun s w rest e hs hw => ?illegal, fun s rest hs => ?pin, fun s hs => ?idle⟩
  case legal => exact (step_of_command hs).trans (applyWord_of_decode_ok hw _)
  case illegal => exact (step_of_command hs).trans (applyWord_of_decode_error hw _)
  case pin => exact step_of_cons hs
  case idle => exact step_of_nil hs

end Sys2Proof.Machine
end

section
/-! SUPPORT. What one step can do and what a READ answers, each said once: the word a legal command came from, the
inversion of `step` over the inputs it can find in front, the BYTE that completes a frame, and READ of a readable and of
a gated register. -/

namespace Sys2Proof

/-- The word of a DECODE is assembled from its tag's code and its offsets. -/
theorem encode_decodeWith (t : TypeTag) (lo hi : Byte) :
    encode (.decodeWith t lo hi) = assemble 0x4 t.code hi lo := by
  cases t <;> rfl

/-- A word that decodes is the word of its operation: no bit is dropped (30_encoding.md R85-R87). -/
theorem encode_of_decode_ok {w : Word} {i : Instr} (h : decode w = .ok i) : encode i = w := by
  have fields := assemble_fields w
  unfold decode decodeDecode at h
  split_ifs at h with hop hf hop hf hop hf hop hr hop hf <;>
    simp only [hop] at fields
  case pos | pos | pos | pos =>
    cases h
    simpa [encode, hf] using fields hf.1
  case neg =>
    rw [not_not] at hr
    cases ht : TypeTag.ofCode (tagField w) with
    | none => simp [ht] at h
    | some t =>
      rw [ht] at h
      cases h
      rw [encode_decodeWith, ← (TypeTag.ofCode_eq_some_iff _ _).mp ht]
      exact fields hr

end Sys2Proof

namespace Sys2Proof.Machine

/-- What a step can do when it answers next: nothing was presented; the pin resets; a word runs its operation; or it is
ILLEGAL (00_scope.md R10, log entry 2). -/
theorem step_cases {s t : State} (h : step s = .next t) :
    (s.inputs = [] ∧ t = s.setRsp none) ∨
    ∃ rest,
      (s.inputs = .resetPin :: rest ∧ t = (s.setInputs rest).toReset) ∨
      ∃ w, s.inputs = .command w :: rest ∧
        ((∃ i, decode w = .ok i ∧ exec i (s.setInputs rest) = .next t) ∨
          ((∃ e, decode w = .error e) ∧ t = (s.setInputs rest).raise .cmdErr)) := by
  cases hin : s.inputs with
  | nil =>
    rw [step_of_nil hin] at h
    exact .inl ⟨rfl, (Host.Outcome.next.inj h).symm⟩
  | cons i rest =>
    refine .inr ⟨rest, ?_⟩
    cases i with
    | resetPin =>
      rw [step_of_cons hin] at h
      exact .inl ⟨rfl, (Host.Outcome.next.inj h).symm⟩
    | command w =>
      rw [step_of_command hin] at h
      refine .inr ⟨w, rfl, ?_⟩
      cases hw : decode w with
      | ok i => exact .inl ⟨i, rfl, (applyWord_of_decode_ok hw _).symm.trans h⟩
      | error e =>
        rw [applyWord_of_decode_error hw] at h
        exact .inr ⟨⟨e, rfl⟩, (Host.Outcome.next.inj h).symm⟩

/-- Without a reset in front, a step changes no element of the block, or runs an operation other than RESET whose word
stands in front. -/
theorem step_cases_of_no_reset {s t : State} (h : step s = .next t)
    (hno : ∀ i, s.inputs.head? = some i → i.isReset = false) :
    (∃ is r, t = (s.setInputs is).setRsp r) ∨
    ∃ i rest, s.inputs = .command (encode i) :: rest ∧ i ≠ .reset ∧ exec i (s.setInputs rest) = .next t := by
  rcases step_cases h with ⟨-, rfl⟩ | ⟨rest, ⟨hin, -⟩ | ⟨w, hin, ⟨i, hw, hx⟩ | ⟨-, rfl⟩⟩⟩
  · exact .inl ⟨s.inputs, none, rfl⟩
  · exact absurd (hno .resetPin (by simp [hin])) nofun
  · obtain rfl := encode_of_decode_ok hw
    refine .inr ⟨i, rest, hin, ?_, hx⟩
    rintro rfl
    exact absurd (hno _ (by rw [hin]; rfl)) (by decide)
  · exact .inl ⟨rest, some _, rfl⟩

/-- The one state a BYTE that completes a frame leaves (40_frame_parser.md R118). -/
theorem eq_of_completesFrame {b : Byte} {s t : State} (hc : s.completesFrame b) (h : exec (.byte b) s = .next t) :
    t = (s.setPstate .idle).accept.1.respond (s.setPstate .idle).accept.2 0 true :=
  Host.Outcome.next.inj (h.symm.trans (execByte_of_completesFrame hc))

/-- READ of a mapped register that is not gated, or of any while VALID = 1 (42_driver_integrator.md R181). -/
theorem exec_read_of_readable {a : Byte} {r : Reg} {s : State} (ha : regAt a = some r)
    (hr : regGated r = false ∨ s.valid = true) :
    exec (.read a) s = .next (s.respond .ok (s.regValue r) false) := by
  have : (regGated r && !s.valid) = false := by rcases hr with hr | hr <;> simp [hr]
  simp [exec, execRead, ha, this]

/-- READ of a reading register while VALID = 0 (42_driver_integrator.md R181, 60_exceptions.md R233). -/
theorem exec_read_of_gated {a : Byte} {r : Reg} {s : State} (ha : regAt a = some r) (hr : regGated r = true)
    (hv : s.valid = false) :
    exec (.read a) s = .next (s.raise .accessErr) := by
  simp [exec, execRead, ha, hr, hv]

end Sys2Proof.Machine
end

section
/-! SUPPORT. The invariants of 10_state.md R52: clauses (b) to (e) as one clause per parser state, beside those that all
parser states share; and each branch of BYTE, each operation and each step keeping them. -/

namespace Sys2Proof.Machine

/-- 10_state.md R52(b)-(e): what the count is in parser state `p`. -/
def State.countClause (s : State) : PState → Prop
  | .idle =>
    (s.declLen = 0 ∧ s.msgId = 0 ∧ s.payloadCount = 0) ∨ (s.msgId = Config.targetId ∧ s.payloadCount = s.declLen)
  | .gotStx | .gotLen | .gotSeq | .gotSys | .gotComp => s.payloadCount = 0
  | .inPayload => s.payloadCount.toNat < s.declLen.toNat
  | .gotCka | .gotCkb => s.payloadCount = s.declLen

/-- The clauses of the invariants that do not look at the parser state. -/
def State.Standing (s : State) : Prop :=
  s.payload.wf ∧ (s.valid = true → s.prevValid = true ∧ s.prevTimeUs = s.timeUs) ∧ s.declLen ≠ Config.sentinel

/-- The invariants are the shared clauses and the clause of the current parser state: a count below a byte leaves the
payload space room, so (f) follows from (b). -/
theorem inv_iff (s : State) : Inv s ↔ s.Standing ∧ s.countClause s.pstate := by
  constructor
  · rintro ⟨hm, hp, hc, hh, hi, -, hl, hn⟩
    refine ⟨⟨hm, hl, hn⟩, ?_⟩
    cases hs : s.pstate
    case idle => exact hi hs
    case inPayload => exact (hp hs).2
    case gotCka => exact hc (.inl hs)
    case gotCkb => exact hc (.inr hs)
    all_goals exact hh (by simp [hs])
  · rintro ⟨⟨hm, hl, hn⟩, h⟩
    have clause {p : PState} (hp : s.pstate = p) : s.countClause p := hp ▸ h
    have below (hp : s.pstate = .inPayload) : s.payloadCount.toNat < s.declLen.toNat := clause hp
    have hd := s.declLen.isLt
    have hc := s.payloadCount.isLt
    refine ⟨hm, fun hp => ?inPayload, fun hp => ?inChecksum, fun hp => ?inHeader, clause,
      ⟨by omega, fun hp => ?countFits⟩, hl, hn⟩
    case inPayload => exact ⟨Nat.one_le_of_lt (below hp), below hp⟩
    case inChecksum => rcases hp with hp | hp <;> exact clause hp
    case inHeader =>
      simp only [List.mem_cons, List.not_mem_nil, or_false] at hp
      rcases hp with hp | hp | hp | hp | hp <;> exact clause hp
    case countFits =>
      have := below hp
      simp only [Config.payloadCap]
      omega

/-- A state in parser state `p` has the invariants when the shared clauses and p's hold. -/
theorem Inv.of_count {s : State} {p : PState} (hs : s.Standing) (hp : s.pstate = p) (hc : s.countClause p) : Inv s :=
  (inv_iff s).mpr ⟨hs, hp ▸ hc⟩

section
variable {s : State} (h : Inv s)
include h

/-- The shared clauses. -/
theorem Inv.standing : s.Standing := ((inv_iff s).mp h).1

/-- The clause of the parser state the block is in. -/
theorem Inv.count {p : PState} (hp : s.pstate = p) : s.countClause p := hp ▸ ((inv_iff s).mp h).2

/-- No clause looks at the response. -/
theorem Inv.setRsp (r : Option Response) : Inv (s.setRsp r) := (inv_iff _).mpr ((inv_iff s).mp h)

/-- No clause looks at the inputs. -/
theorem Inv.setInputs (is : List Input) : Inv (s.setInputs is) := (inv_iff _).mpr ((inv_iff s).mp h)

/-- No clause looks at TERR. -/
theorem Inv.setTerr (b : Bool) : Inv (s.setTerr b) := (inv_iff _).mpr ((inv_iff s).mp h)

/-- A reset keeps the payload's bytes and gives every other element its reset value (70_reset_and_hazards.md R261). -/
theorem Inv.toReset : Inv s.toReset :=
  .of_count (p := .idle) ⟨h.payloadCanonical, nofun, (by decide : State.reset.declLen ≠ Config.sentinel)⟩ rfl
    (.inl ⟨rfl, rfl, rfl⟩)

/-- A sentinel starts a frame with an empty payload (R112). -/
theorem Inv.restartFrame : Inv s.restartFrame :=
  .of_count (p := .gotStx) h.standing rfl rfl

/-- LEN is any byte but the sentinel (R113). -/
theorem Inv.takeLen (hp : s.pstate = .gotStx) {b : Byte} (hb : b ≠ Config.sentinel) :
    Inv ((s.setDeclLen b).setPstate .gotLen) :=
  .of_count (p := .gotLen) ⟨h.payloadCanonical, h.latched, hb⟩ rfl (h.count hp)

/-- A move from parser state `p` to one whose clause follows from p's. -/
theorem Inv.advance {p q : PState} (hp : s.pstate = p) (hc : s.countClause p → s.countClause q) : Inv (s.setPstate q) :=
  .of_count (p := q) h.standing rfl (hc (h.count hp))

/-- The message identifier starts an empty payload, complete at once when LEN = 0 (R115). -/
theorem Inv.takeMsgId (b : Byte) : Inv (s.takeMsgId b) := by
  refine .of_count (p := afterMsgId s.declLen) h.standing rfl ?_
  unfold afterMsgId
  split
  case isTrue hz => exact hz.symm
  case isFalse hz =>
    have : s.declLen.toNat ≠ 0 := fun hn => hz (BitVec.eq_of_toNat_eq hn)
    exact Nat.pos_of_ne_zero this

/-- A payload byte is stored inside the payload space, and the count stays below LEN until it reaches it (R116). -/
theorem Inv.takePayloadByte (hp : s.pstate = .inPayload) (hcap : s.payloadCount.toNat < Config.payloadCap) (b : Byte) :
    Inv (((s.setPayload (s.payload.write s.payloadCount.toNat b)).setPayloadCount (s.payloadCount + 1)).setPstate
      (if s.payloadCount + 1 = s.declLen then .gotCka else .inPayload)) := by
  have below : s.payloadCount.toNat < s.declLen.toNat := h.count hp
  refine .of_count ⟨Memory.write_wf h.payloadCanonical hcap b, h.latched, h.lenNotSentinel⟩ rfl ?_
  split
  case isTrue hfull => exact hfull
  case isFalse hmore =>
    change (s.payloadCount + 1).toNat < s.declLen.toNat
    bv_omega

end

/-- Accept records one time as the reading's and the previous one, or leaves both (R172, R173, R178). -/
theorem State.Standing.accept {s : State} (h : s.Standing) : s.accept.1.Standing := by
  obtain ⟨hm, hl, hn⟩ := h
  refine ⟨by simpa using hm, fun hv => ?_, by simpa using hn⟩
  by_cases hc : 26 ≤ s.payloadCount.toNat
  · rw [State.accept_of_long s hc]
    simp
  · rw [State.accept_of_short s (by omega)] at hv ⊢
    exact hl hv

/-- A completed target frame leaves IDLE with the frame's own length as the count (R118). -/
theorem Inv.acceptFrame {s : State} (h : Inv s) (hp : s.pstate = .gotCkb) (ht : s.msgId = Config.targetId) :
    Inv (s.setPstate .idle).accept.1 := by
  have hs : (s.setPstate .idle).Standing := h.standing
  have hc : s.payloadCount = s.declLen := h.count hp
  exact .of_count (p := .idle) hs.accept (by simp) (.inr (by simp [ht, hc]))

/-- BYTE keeps the invariants, branch by branch (R110). -/
theorem execByte_keeps_inv {b : Byte} {s t : State} (h : Inv s) (hx : execByte b s = .next t) : Inv t := by
  rcases execByte_cases hx with ⟨-, rfl⟩ | ⟨-, -, rfl⟩ | ⟨-, hb, branch⟩
  case inl => exact h.setRsp _
  case inr.inl => exact h.restartFrame.setRsp _
  case inr.inr =>
    rcases branch with ⟨-, rfl⟩ | ⟨hp, rfl⟩ | ⟨hp, rfl⟩ | ⟨hp, rfl⟩ | ⟨hp, rfl⟩ | ⟨-, rfl⟩ | ⟨hp, hcap, rfl⟩ |
      ⟨hp, rfl⟩ | ⟨-, -, rfl⟩ | ⟨hp, ht, rfl⟩
    · exact h.setRsp _
    · exact (h.takeLen hp hb).setRsp _
    · exact (h.advance (q := .gotSeq) hp id).setRsp _
    · exact (h.advance (q := .gotSys) hp id).setRsp _
    · exact (h.advance (q := .gotComp) hp id).setRsp _
    · exact (h.takeMsgId b).setRsp _
    · exact (h.takePayloadByte hp hcap b).setRsp _
    · exact (h.advance (q := .gotCkb) hp id).setRsp _
    · exact h.setRsp _
    · exact (h.acceptFrame hp ht).setRsp _

/-- Every operation keeps the invariants. -/
theorem exec_keeps_inv {i : Instr} {s t : State} (h : Inv s) (hx : exec i s = .next t) : Inv t := by
  rcases exec_cases hx with ⟨b, rfl⟩ | ⟨-, rfl⟩ | ⟨-, rfl⟩ | ⟨-, r, rfl⟩
  · exact execByte_keeps_inv h hx
  · exact (h.setTerr true).setRsp _
  · exact h.toReset.setRsp _
  · exact h.setRsp _

/-- Settles O44: at reset the parser idles with the reset values, and no reading is latched. -/
theorem invariantsHoldAtReset : Obligations.InvariantsHoldAtReset :=
  .of_count (p := .idle) ⟨Memory.nil_wf, nofun, by decide⟩ rfl (.inl ⟨rfl, rfl, rfl⟩)

/-- Settles O45, by what a step can find in front: nothing, the pin, a legal word, an illegal word. -/
theorem stepKeepsTheInvariants : Obligations.StepKeepsTheInvariants := by
  intro s t h hstep
  rcases step_cases hstep with ⟨-, rfl⟩ | ⟨rest, ⟨-, rfl⟩ | ⟨w, -, ⟨i, -, hx⟩ | ⟨-, rfl⟩⟩⟩
  · exact h.setRsp none
  · exact (h.setInputs rest).toReset
  · exact exec_keeps_inv (h.setInputs rest) hx
  · exact (h.setInputs rest).setRsp _

end Sys2Proof.Machine
end

section
/-! SUPPORT. The words READ answers: STATUS, CONFIG and the reading registers, field by field (10_state.md R40-R49). -/

namespace Sys2Proof.Machine

/-! ### STATUS (R40) -/

/-- STATUS[3:0] is the parser state's code. -/
theorem State.statusWord_pstate (s : State) : s.statusWord.extractLsb' 0 4 = s.pstate.code :=
  BitVec.extractLsb'_append_eq_right

/-- The four flag bits of STATUS. -/
theorem State.statusWord_flags (s : State) :
    s.statusWord.getLsbD 4 = s.valid ∧ s.statusWord.getLsbD 5 = s.prevValid ∧ s.statusWord.getLsbD 6 = s.derr ∧
      s.statusWord.getLsbD 7 = s.terr := by
  simp only [State.statusWord, BitVec.getLsbD_append]
  simp

/-- STATUS[63:8] is 0: the four flag bits and the code stand below. -/
theorem State.statusWord_high (s : State) : s.statusWord.extractLsb' 8 56 = 0 :=
  (BitVec.extractLsb'_append_eq_of_le (by decide)).trans <|
    (BitVec.extractLsb'_append_eq_of_le (by decide)).trans <|
    (BitVec.extractLsb'_append_eq_of_le (by decide)).trans <|
    (BitVec.extractLsb'_append_eq_of_le (by decide)).trans BitVec.extractLsb'_append_eq_left

/-- Settles O30: READ 0x00 answers the STATUS word, whose parts are the parser state's code, the flags and zeros. -/
theorem statusWordFields : Obligations.StatusWordFields := by
  refine ⟨by decide, fun s => ⟨s.statusWord, exec_read_of_readable (r := .status) rfl (.inl rfl), ?_⟩⟩
  obtain ⟨hvalid, hprev, hderr, hterr⟩ := s.statusWord_flags
  refine ⟨?_, hvalid, hprev, hderr, hterr, s.statusWord_high⟩
  rw [s.statusWord_pstate]
  cases s.pstate <;> rfl

/-! ### CONFIG (R44) -/

/-- CONFIG: [7:0] SENTINEL, [15:8] TARGET_ID, [47:16] GAP_US, the rest 0. -/
theorem State.configWord_fields (s : State) :
    s.configWord.extractLsb' 0 8 = Config.sentinel ∧ s.configWord.extractLsb' 8 8 = Config.targetId ∧
      s.configWord.extractLsb' 16 32 = s.gapUs ∧ s.configWord.extractLsb' 48 16 = 0 := by
  unfold State.configWord
  refine ⟨BitVec.extractLsb'_append_eq_right, ?target, ?gap, ?high⟩ <;>
    refine (BitVec.extractLsb'_append_eq_of_le (by decide)).trans ?_
  case target => exact BitVec.extractLsb'_append_eq_right
  case gap => exact (BitVec.extractLsb'_append_eq_of_le (by decide)).trans BitVec.extractLsb'_append_eq_right
  case high => exact (BitVec.extractLsb'_append_eq_of_le (by decide)).trans BitVec.extractLsb'_append_eq_left

/-- No operation writes GAP_US (10_state.md R37). -/
theorem exec_keeps_gapUs {i : Instr} {s t : State} (h : exec i s = .next t) : t.gapUs = s.gapUs := by
  rcases exec_cases h with ⟨b, rfl⟩ | ⟨-, rfl⟩ | ⟨-, rfl⟩ | ⟨-, r, rfl⟩
  case inl =>
    by_cases hc : s.completesFrame b
    · obtain rfl := eq_of_completesFrame hc h
      simp
    · rw [execByte_of_not_completesFrame h hc]
  all_goals rfl

/-- Settles O31: the word's fields are the parts it is put together from, and the one variable part, GAP_US, is never
written. -/
theorem configWordFields : Obligations.ConfigWordFields := by
  refine ⟨fun s => ⟨s.configWord, ?read, s.configWord_fields⟩, fun s hgap => ?default, fun i s t h => ?unchanged⟩
  case read => exact exec_read_of_readable (r := .config) rfl (.inl rfl)
  case default =>
    rw [State.configWord, hgap]
    decide
  case unchanged => rw [State.configWord, State.configWord, exec_keeps_gapUs h]

/-! ### The reading words (R46-R49) -/

/-- The bits a zero extension adds are 0. -/
theorem extractLsb'_setWidth_of_ge {w : Nat} (x : BitVec w) (n len : Nat) {start : Nat} (h : w ≤ start) :
    (x.setWidth n).extractLsb' start len = 0 := by
  apply BitVec.eq_of_getLsbD_eq
  intro k hk
  simp [BitVec.getLsbD_extractLsb', BitVec.getLsbD_setWidth, BitVec.getLsbD_of_ge x (start + k) (by omega)]

/-- The low field of a zero extension is the extended pattern. -/
theorem extractLsb'_setWidth_self {w n : Nat} (x : BitVec w) (h : w ≤ n) :
    (x.setWidth n).extractLsb' 0 w = x :=
  (BitVec.extractLsb'_setWidth_of_le (by omega)).trans BitVec.extractLsb'_eq_self

/-- RAW_FLOW: the x lane under the y lane, under 32 zeros (R48). -/
theorem State.rawFlowWord_lanes (s : State) :
    (s.regValue .rawFlow).extractLsb' 0 16 = s.rawFlowX ∧ (s.regValue .rawFlow).extractLsb' 16 16 = s.rawFlowY ∧
      (s.regValue .rawFlow).extractLsb' 32 32 = 0 :=
  ⟨(BitVec.extractLsb'_setWidth_of_le (by decide)).trans BitVec.extractLsb'_append_eq_right,
    (BitVec.extractLsb'_setWidth_of_le (by decide)).trans BitVec.extractLsb'_append_eq_left,
    extractLsb'_setWidth_of_ge _ 64 32 (by decide)⟩

/-- Settles O32: each word is its lanes, the lower one first, under zeros. -/
theorem readingWordLanes : Obligations.ReadingWordLanes := by
  intro s
  refine ⟨fun hv a ha => ?gated, fun hv => ?readable⟩
  case gated =>
    simp only [List.mem_cons, List.not_mem_nil, or_false] at ha
    rcases ha with rfl | rfl | rfl | rfl <;> exact exec_read_of_gated rfl rfl hv
  case readable =>
    refine ⟨⟨s.regValue .flowComp, exec_read_of_readable rfl (.inr hv), ?flow⟩,
      ⟨s.regValue .groundDistance, exec_read_of_readable rfl (.inr hv), ?distance⟩,
      ⟨s.regValue .rawFlow, exec_read_of_readable rfl (.inr hv), ?raw⟩,
      ⟨s.regValue .quality, exec_read_of_readable rfl (.inr hv), ?quality⟩⟩
    case flow => exact ⟨BitVec.extractLsb'_append_eq_right, BitVec.extractLsb'_append_eq_left⟩
    case distance =>
      exact ⟨extractLsb'_setWidth_self _ (by decide), extractLsb'_setWidth_of_ge _ 64 32 le_rfl⟩
    case raw =>
      obtain ⟨hx, hy, hhigh⟩ := s.rawFlowWord_lanes
      exact ⟨hx, hy, hhigh, congrArg _ hx, congrArg _ hy⟩
    case quality =>
      exact ⟨extractLsb'_setWidth_self _ (by decide), extractLsb'_setWidth_of_ge _ 64 56 le_rfl⟩

end Sys2Proof.Machine
end

section
/-! SUPPORT. What stands between two resets: VALID, PREV_VALID and TERR once set stay set, SAMPLE_COUNT never falls, and
only a completed frame of 26 payload bytes sets VALID (R26, R32, R34, R36, R171, R173). -/

namespace Sys2Proof.Machine

/-- From `s` to `t` no flag that lasts until the next reset is cleared, and the count does not fall. -/
structure State.Lasts (s t : State) : Prop where
  valid : s.valid = true → t.valid = true
  prevValid : s.prevValid = true → t.prevValid = true
  terr : s.terr = true → t.terr = true
  count : s.sampleCount.toNat ≤ t.sampleCount.toNat

/-- The saturating count never falls (R171). -/
theorem le_saturatingSucc (n : BitVec 64) : n.toNat ≤ (saturatingSucc n).toNat := by
  rw [saturatingSucc_toNat]
  omega

/-- Accept sets VALID exactly from 26 payload bytes on, and leaves it as it was below (R172, R173). -/
theorem State.accept_valid (s : State) :
    s.accept.1.valid = if 26 ≤ s.payloadCount.toNat then true else s.valid := by
  split
  case isTrue hc => simp [State.accept_of_long s hc]
  case isFalse hc => simp [State.accept_of_short s (by omega)]

/-- Accept sets PREV_VALID exactly where it sets VALID (R174, R178). -/
theorem State.accept_prevValid (s : State) :
    s.accept.1.prevValid = if 26 ≤ s.payloadCount.toNat then true else s.prevValid := by
  split
  case isTrue hc => simp [State.accept_of_long s hc]
  case isFalse hc => simp [State.accept_of_short s (by omega)]

/-- Accept clears none of the lasting flags and counts up. -/
theorem State.lasts_accept (s : State) : s.Lasts s.accept.1 where
  valid hv := by rw [State.accept_valid, hv, ite_self]
  prevValid hv := by rw [State.accept_prevValid, hv, ite_self]
  terr ht := by rw [State.accept_terr, ht]
  count := by rw [State.accept_sampleCount]; exact le_saturatingSucc _

/-- No operation but RESET clears a lasting flag (R180). -/
theorem exec_lasts {i : Instr} {s t : State} (h : exec i s = .next t) (hi : i ≠ .reset) : s.Lasts t := by
  rcases exec_cases h with ⟨b, rfl⟩ | ⟨-, rfl⟩ | ⟨hr, -⟩ | ⟨-, r, rfl⟩
  case inl =>
    by_cases hc : s.completesFrame b
    · obtain rfl := eq_of_completesFrame hc h
      obtain ⟨hv, hp, ht, hn⟩ := (s.setPstate .idle).lasts_accept
      exact ⟨hv, hp, ht, hn⟩
    · rw [execByte_of_not_completesFrame h hc]
      exact ⟨id, id, id, le_rfl⟩
  case inr.inl => exact ⟨id, id, fun _ => rfl, le_rfl⟩
  case inr.inr.inl => exact absurd hr hi
  case inr.inr.inr => exact ⟨id, id, id, le_rfl⟩

/-- VALID becomes 1 only in the BYTE that completes a frame of at least 26 payload bytes (R173). -/
theorem exec_sets_valid {i : Instr} {s t : State} (h : exec i s = .next t) (hs : s.valid = false)
    (ht : t.valid = true) : ∃ b, i = .byte b ∧ s.completesFrame b ∧ 26 ≤ s.payloadCount.toNat := by
  have unset : t.valid ≠ s.valid := by simp [hs, ht]
  rcases exec_cases h with ⟨b, rfl⟩ | ⟨-, rfl⟩ | ⟨-, rfl⟩ | ⟨-, r, rfl⟩
  case inl =>
    by_cases hc : s.completesFrame b
    · refine ⟨b, rfl, hc, ?_⟩
      obtain rfl := eq_of_completesFrame hc h
      by_contra hshort
      simp [State.accept_valid, hshort] at unset
    · rw [execByte_of_not_completesFrame h hc] at unset
      exact absurd rfl unset
  case inr.inl => exact absurd rfl unset
  case inr.inr.inl => exact nomatch ht
  case inr.inr.inr => exact absurd rfl unset

/-- Settles O43, by the two kinds of step without a reset in front: one that changes no element of the block, and one
that runs an operation other than RESET. -/
theorem validPrevValidTerrAndCountAreMonotoneBetweenResets :
    Obligations.ValidPrevValidTerrAndCountAreMonotoneBetweenResets := by
  intro s t hstep hno
  rcases step_cases_of_no_reset hstep hno with ⟨is, r, rfl⟩ | ⟨i, rest, hin, hi, hx⟩
  case inl =>
    exact ⟨id, id, id, le_rfl, fun hs ht => absurd (hs.symm.trans ht) nofun⟩
  case inr =>
    obtain ⟨hv, hp, ht, hn⟩ := exec_lasts hx hi
    refine ⟨hv, hp, ht, hn, fun hs hset => ?_⟩
    obtain ⟨b, rfl, hc, hlong⟩ := exec_sets_valid hx hs hset
    exact ⟨hlong, b, by simp [hin], hc⟩

end Sys2Proof.Machine
end

section
/-! SUPPORT. The payload space as numbers and as data: a multi-byte read as a sum of weighted bytes, and the canonical
form as the set of cells it lists (20_memory.md R60, R63). -/

namespace Sys2Proof.Machine

/-- Settles O8, by induction on the number of bytes: one more byte above shifts the rest of the sum by one place. -/
theorem payloadReadIsLittleEndian : Obligations.PayloadReadIsLittleEndian := by
  intro m a n
  induction n generalizing a with
  | zero => rfl
  | succ n ih =>
    have place (k : Nat) : 256 * ((m.read (a + 1 + k)).toNat * 2 ^ (8 * k)) =
        (m.read (a + (k + 1))).toNat * 2 ^ (8 * (k + 1)) := by
      rw [Nat.add_right_comm, Nat.add_assoc a k 1, Nat.mul_succ, Nat.pow_add]
      ring
    rw [Memory.readLE, ih, Finset.mul_sum, Finset.sum_range_succ', Nat.add_comm]
    simp [place]

/-- A canonical buffer lists exactly the cells whose address reads as their byte, unwritten bytes left out. -/
theorem Memory.mem_iff_read {m : Memory} (h : m.wf) (c : Host.Cell) :
    c ∈ m ↔ m.read c.1 = c.2 ∧ c.2 ≠ Memory.unwritten := by
  induction m with
  | nil =>
    simp only [List.not_mem_nil, Memory.read, false_iff]
    rintro ⟨hc, hne⟩
    exact hne hc.symm
  | cons d m ih =>
    obtain ⟨b, u⟩ := d
    obtain ⟨hsorted, hcells⟩ := h
    obtain ⟨hb, hm⟩ := List.pairwise_cons.mp hsorted
    have tail := ih ⟨hm, fun e he => hcells e (List.mem_cons_of_mem _ he)⟩
    obtain ⟨a, v⟩ := c
    by_cases ha : a = b
    case pos =>
      subst ha
      have hu : u ≠ Memory.unwritten := (hcells (a, u) (by simp)).2
      have hnot : (a, v) ∉ m := fun hin => lt_irrefl a (hb (a, v) hin)
      simp only [List.mem_cons, hnot, or_false, Prod.mk.injEq, true_and, Memory.read, if_true]
      constructor
      · rintro rfl
        exact ⟨rfl, hu⟩
      · exact fun hv => hv.1.symm
    case neg => simpa [Memory.read, ha] using tail

/-- Settles O9: both buffers list the same cells, in the one rising order. -/
theorem canonicalPayloadsAreDeterminedByTheirBytes : Obligations.CanonicalPayloadsAreDeterminedByTheirBytes := by
  intro m m' hm hm' hread
  have : Std.Irrefl (fun c d : Host.Cell => c.1 < d.1) := ⟨fun c => lt_irrefl c.1⟩
  have : Std.Antisymm (fun c d : Host.Cell => c.1 < d.1) := ⟨fun _ _ hlt hgt => absurd hgt hlt.asymm⟩
  refine List.Pairwise.eq_of_mem_iff hm.1 hm'.1 fun c => ?_
  rw [Memory.mem_iff_read hm, Memory.mem_iff_read hm', hread]

end Sys2Proof.Machine
end

section
/-! SUPPORT. The operations by kind: BYTE, which alone can stop, and only for want of an index; the other operations,
which always answer; and READ and DECODE, which look at no earlier response (20_memory.md R60, R69). -/

namespace Sys2Proof.Machine

/-- The operations by what they do: the five DECODEs are one kind. -/
theorem instr_kinds (i : Instr) :
    (∃ b, i = .byte b) ∨ i = .rxerr ∨ i = .reset ∨ (∃ a, i = .read a) ∨ ∃ t lo hi, i = Instr.decodeWith t lo hi := by
  cases i with
  | byte b => exact .inl ⟨b, rfl⟩
  | rxerr => exact .inr (.inl rfl)
  | reset => exact .inr (.inr (.inl rfl))
  | read a => exact .inr (.inr (.inr (.inl ⟨a, rfl⟩)))
  | decodeI16x2 lo hi => exact .inr (.inr (.inr (.inr ⟨.i16x2, lo, hi, rfl⟩)))
  | decodeF32x2 lo hi => exact .inr (.inr (.inr (.inr ⟨.f32x2, lo, hi, rfl⟩)))
  | decodeF32x1 lo hi => exact .inr (.inr (.inr (.inr ⟨.f32x1, lo, hi, rfl⟩)))
  | decodeU8x1 lo hi => exact .inr (.inr (.inr (.inr ⟨.u8x1, lo, hi, rfl⟩)))
  | decodeU64x1 lo hi => exact .inr (.inr (.inr (.inr ⟨.u64x1, lo, hi, rfl⟩)))

/-- DECODE of any tag is the field decode of its range (41_field_decoder.md R146). -/
theorem exec_decodeWith (t : TypeTag) (lo hi : Byte) (s : State) :
    exec (.decodeWith t lo hi) s = .next (s.decodeField t lo hi) := by
  cases t <;> rfl

/-- READ and DECODE answer with a response, whatever response stood before, and change nothing else. -/
theorem exec_read_or_decode {i : Instr} (s : State)
    (hi : (∃ a, i = .read a) ∨ ∃ t lo hi, i = Instr.decodeWith t lo hi) :
    ∃ r, exec i s = .next (s.setRsp r) ∧ ∀ q, exec i (s.setRsp q) = .next (s.setRsp r) := by
  rcases hi with ⟨a, rfl⟩ | ⟨t, lo, hi, rfl⟩
  case inl =>
    obtain ⟨r, hr⟩ := execRead_eq a s
    exact ⟨some r, hr, fun _ => hr⟩
  case inr =>
    obtain ⟨r, hr⟩ := s.decodeField_eq t lo hi
    have answer : exec (.decodeWith t lo hi) s = .next (s.setRsp (some r)) := by rw [exec_decodeWith, hr]
    refine ⟨some r, answer, fun q => ?_⟩
    rw [← answer, exec_decodeWith, exec_decodeWith]
    rfl

/-- Settles O33: the second run answers as the first, since neither looks at the response standing. -/
theorem readsHaveNoSideEffect : Obligations.ReadsHaveNoSideEffect := by
  intro i s hi
  obtain ⟨r, hfirst, hagain⟩ := exec_read_or_decode s hi
  exact ⟨s.setRsp r, hfirst, rfl, hagain r⟩

/-- IN_PAYLOAD with no index left stops (log entry 7). -/
theorem State.takePayloadByte_of_ge (s : State) (b : Byte) (h : ¬ s.payloadCount.toNat < Config.payloadCap) :
    s.takePayloadByte b = .fault .payloadAddress := by
  simp only [State.takePayloadByte, State.appendPayload_of_ge s b h]

/-- The payload space has an index for the next byte unless PAYLOAD_COUNT is 255 (R60). -/
theorem lt_payloadCap_iff (n : Byte) : n.toNat < Config.payloadCap ↔ n ≠ 255 := by
  simp only [Config.payloadCap]
  bv_omega

/-- BYTE b stores a payload byte for which the payload space has no index left (log entry 7). -/
def State.LacksIndex (s : State) (b : Byte) : Prop :=
  s.terr = false ∧ b ≠ Config.sentinel ∧ s.pstate = .inPayload ∧ s.payloadCount = 255

/-- BYTE stops for want of an index. -/
theorem exec_byte_of_lacksIndex {s : State} {b : Byte} (h : s.LacksIndex b) :
    exec (.byte b) s = .fault .payloadAddress := by
  obtain ⟨hterr, hb, hp, hc⟩ := h
  have full : ¬ s.payloadCount.toNat < Config.payloadCap := fun hlt => (lt_payloadCap_iff _).mp hlt hc
  calc execByte b s
    _ = s.parse b := execByte_of_ne hterr hb
    _ = s.takePayloadByte b := State.parse_inPayload b hp
    _ = .fault .payloadAddress := State.takePayloadByte_of_ge s b full

/-- BYTE answers wherever it does not want for an index. -/
theorem exec_byte_of_not_lacksIndex {s : State} {b : Byte} (h : ¬ s.LacksIndex b) :
    ∃ t, exec (.byte b) s = .next t := by
  refine execByte_next_of ?_
  rw [lt_payloadCap_iff]
  by_contra hno
  simp only [not_or, Bool.not_eq_true, not_not] at hno
  exact h hno

/-- Every operation answers a next state, but a BYTE that lacks an index. -/
theorem exec_next_or_stops (i : Instr) (s : State) :
    ((∃ t, exec i s = .next t) ∧ ∀ b, i = .byte b → ¬ s.LacksIndex b) ∨
      (exec i s = .fault .payloadAddress ∧ ∃ b, i = .byte b ∧ s.LacksIndex b) := by
  rcases instr_kinds i with ⟨b, rfl⟩ | rfl | rfl | hread
  · by_cases h : s.LacksIndex b
    case pos => exact .inr ⟨exec_byte_of_lacksIndex h, b, rfl, h⟩
    case neg => exact .inl ⟨exec_byte_of_not_lacksIndex h, fun c hc => Instr.byte.inj hc ▸ h⟩
  · exact .inl ⟨⟨_, rfl⟩, nofun⟩
  · exact .inl ⟨⟨_, rfl⟩, nofun⟩
  · obtain ⟨r, hr, -⟩ := exec_read_or_decode s hread
    refine .inl ⟨⟨_, hr⟩, ?_⟩
    rintro b rfl
    rcases hread with ⟨a, ha⟩ | ⟨t, lo, hi, ht⟩
    · nomatch ha
    · cases t <;> nomatch ht

/-- Settles O20: the one operation that can stop is a BYTE that lacks an index, and nothing refuses. -/
theorem onlyAPayloadByteAtIndex255Stops : Obligations.OnlyAPayloadByteAtIndex255Stops := by
  intro i s
  rcases exec_next_or_stops i s with ⟨⟨t, ht⟩, hroom⟩ | ⟨hf, hstop⟩
  case inl =>
    rw [ht]
    exact ⟨nofun, fun f => ⟨nofun, fun ⟨_, b, hb, hfull⟩ => absurd hfull (hroom b hb)⟩⟩
  case inr =>
    rw [hf]
    exact ⟨nofun, fun f => ⟨fun h => ⟨(Host.Outcome.fault.inj h).symm, hstop⟩, fun h => congrArg _ h.1.symm⟩⟩

end Sys2Proof.Machine
end

section
/-! SUPPORT. The reading registers right after a frame that decodes: each word is put together again from the lanes the
payload's bytes were cut into (20_memory.md R65, 41_field_decoder.md R147). -/

namespace Sys2Proof.Machine

/-- The n lower bytes of an n-byte word, under zeros, are the word. -/
theorem Memory.readLE_setWidth (m : Memory) (a n : Nat) (h : 8 * n ≤ 64) :
    ((BitVec.ofNat 64 (m.readLE a n)).extractLsb' 0 (8 * n)).setWidth 64 = BitVec.ofNat 64 (m.readLE a n) := by
  rw [← BitVec.setWidth_eq_extractLsb' h, BitVec.setWidth_ofNat_of_le h,
    BitVec.setWidth_ofNat_of_le_of_lt h (m.readLE_lt a n)]

/-- The five reading words after Accept of a payload that decodes (R173). -/
theorem State.accept_readingWords (s : State) (h : 26 ≤ s.payloadCount.toNat) :
    s.accept.1.regValue .timeUs = BitVec.ofNat 64 (s.payload.readLE 0 8) ∧
    s.accept.1.regValue .flowComp = BitVec.ofNat 64 (s.payload.readLE 8 8) ∧
    s.accept.1.regValue .groundDistance = BitVec.ofNat 64 (s.payload.readLE 16 4) ∧
    s.accept.1.regValue .rawFlow = BitVec.ofNat 64 (s.payload.readLE 20 4) ∧
    s.accept.1.regValue .quality = BitVec.ofNat 64 (s.payload.readLE 25 1) := by
  simp only [State.accept_of_long s h, State.regValue, State.integrate_timeUs, State.integrate_flowCompX,
    State.integrate_flowCompY, State.integrate_groundDistance, State.integrate_rawFlowX, State.integrate_rawFlowY,
    State.integrate_quality, State.setReading]
  refine ⟨trivial, ?flow, s.payload.readLE_setWidth 16 4 (by decide), ?raw,
    s.payload.readLE_setWidth 25 1 (by decide)⟩
  case flow =>
    exact (BitVec.extractLsb'_append_extractLsb'_eq_extractLsb' (by decide)).trans BitVec.extractLsb'_eq_self
  case raw =>
    rw [BitVec.extractLsb'_append_extractLsb'_eq_extractLsb' (by decide)]
    exact s.payload.readLE_setWidth 20 4 (by decide)

/-- READ of a reading register while VALID = 1 answers its word (42_driver_integrator.md R181). -/
theorem exec_read_of_valid {a : Byte} {r : Reg} {s : State} {v : Data} (hv : s.valid = true) (ha : regAt a = some r)
    (hw : s.regValue r = v) : exec (.read a) s = .next { s with rsp := some ⟨.ok, v, false⟩ } := by
  rw [← hw]
  exact exec_read_of_readable ha (.inr hv)

/-- Settles O34: the frame's BYTE leaves VALID = 1 and the five words, and each READ answers its own. -/
theorem readingWordsAreThePayloadBytes : Obligations.ReadingWordsAreThePayloadBytes := by
  intro b s hc hlong
  have hv : (s.setPstate .idle).accept.1.valid = true := ((s.setPstate .idle).accept_valid).trans (if_pos hlong)
  obtain ⟨htime, hflow, hdist, hraw, hqual⟩ := (s.setPstate .idle).accept_readingWords hlong
  exact ⟨_, execByte_of_completesFrame hc, exec_read_of_valid hv rfl htime, exec_read_of_valid hv rfl hflow,
    exec_read_of_valid hv rfl hdist, exec_read_of_valid hv rfl hraw, exec_read_of_valid hv rfl hqual⟩

end Sys2Proof.Machine
end

section
/-! SUPPORT. The block does the same whatever waits in the queue and whatever the payload buffer holds at or above
PAYLOAD_COUNT: two runs side by side, for every relation of buffers that appending a payload byte keeps
(20_memory.md R62, R70). -/

namespace Sys2Proof.Machine

/-- A relation of two payload buffers, at a count, that no operation of the block tells apart or breaks. -/
structure Unseen (R : Nat → Memory → Memory → Prop) : Prop where
  /-- Related buffers read alike below the count. -/
  reads {n : Nat} {m m' : Memory} : R n m m' → ∀ a < n, m'.read a = m.read a
  /-- The same byte appended to both keeps them related (R116). -/
  append {n : Nat} {m m' : Memory} : R n m m' → n < Config.payloadCap → ∀ b, R (n + 1) (m.write n b) (m'.write n b)
  /-- A fresh empty payload keeps them related (R112, R115). -/
  empty {n : Nat} {m m' : Memory} : R n m m' → R 0 m m'

/-- Canonical buffers that read alike below the count. -/
def AlikeBelow (n : Nat) (m m' : Memory) : Prop := m.wf ∧ m'.wf ∧ ∀ a < n, m'.read a = m.read a

/-- The buffers of R62: the bytes at or above the count are unseen. -/
theorem unseen_alikeBelow : Unseen AlikeBelow where
  reads h := h.2.2
  empty h := ⟨h.1, h.2.1, nofun⟩
  append := by
    rintro n m m' ⟨hm, hm', hread⟩ hn b
    refine ⟨Memory.write_wf hm hn b, Memory.write_wf hm' hn b, fun a ha => ?_⟩
    rw [Memory.read_write hm.1, Memory.read_write hm'.1]
    split
    · rfl
    · exact hread a (by omega)

/-- The same buffer twice. -/
theorem unseen_eq : Unseen fun _ m m' => m = m' where
  reads h a _ := by rw [h]
  empty := id
  append h _ b := by rw [h]

/-- The same block with another payload buffer and another queue. -/
def State.swap (s : State) (m : Memory) (q : List Input) : State := { s with payload := m, inputs := q }

@[simp] theorem State.swap_pstate (s : State) (m : Memory) (q : List Input) : (s.swap m q).pstate = s.pstate := rfl
@[simp] theorem State.swap_payloadCount (s : State) (m : Memory) (q : List Input) :
    (s.swap m q).payloadCount = s.payloadCount := rfl
@[simp] theorem State.swap_valid (s : State) (m : Memory) (q : List Input) : (s.swap m q).valid = s.valid := rfl
@[simp] theorem State.swap_prevValid (s : State) (m : Memory) (q : List Input) :
    (s.swap m q).prevValid = s.prevValid := rfl
@[simp] theorem State.swap_prevTimeUs (s : State) (m : Memory) (q : List Input) :
    (s.swap m q).prevTimeUs = s.prevTimeUs := rfl
@[simp] theorem State.swap_gapUs (s : State) (m : Memory) (q : List Input) : (s.swap m q).gapUs = s.gapUs := rfl
@[simp] theorem State.swap_payload (s : State) (m : Memory) (q : List Input) : (s.swap m q).payload = m := rfl
@[simp] theorem State.swap_inputs (s : State) (m : Memory) (q : List Input) : (s.swap m q).inputs = q := rfl

/-- `u` is `s` but for the queue, which is `q`, and for a payload buffer that R relates to that of `s`. -/
def State.Alike (R : Nat → Memory → Memory → Prop) (q : List Input) (s u : State) : Prop :=
  ∃ m, R s.payloadCount.toNat s.payload m ∧ u = s.swap m q

/-- Two outcomes of the same kind: like next states, or one stop. -/
inductive AlikeOutcome (R : Nat → Memory → Memory → Prop) (q : List Input) :
    Host.Outcome State Fault Refusal → Host.Outcome State Fault Refusal → Prop
  | next {s u : State} : s.Alike R q u → AlikeOutcome R q (.next s) (.next u)
  | fault (f : Fault) : AlikeOutcome R q (.fault f) (.fault f)
  | refused (r : Refusal) : AlikeOutcome R q (.refused r) (.refused r)

/-- Integrate looks at neither the payload buffer nor the queue (R174-R178). -/
theorem State.integrate_swap (s : State) (m : Memory) (q : List Input) (t : BitVec 64) :
    (s.swap m q).integrate t = (s.integrate t).swap m q := by
  rw [State.integrate_eq, State.integrate_eq, State.swap_prevValid, State.swap_prevTimeUs, State.swap_gapUs]
  split <;> rfl

/-! ### Inversion: the second outcome is of the first one's kind -/

section
variable {R : Nat → Memory → Memory → Prop} {q : List Input} {o : Host.Outcome State Fault Refusal}

/-- Beside a next state stands a next state like it. -/
theorem AlikeOutcome.of_next {s : State} (h : AlikeOutcome R q (.next s) o) : ∃ u, o = .next u ∧ s.Alike R q u := by
  cases h with | next hu => exact ⟨_, rfl, hu⟩

/-- Beside a fault stands the same fault. -/
theorem AlikeOutcome.of_fault {f : Fault} (h : AlikeOutcome R q (.fault f) o) : o = .fault f := by
  cases h; rfl

/-- Beside a refusal stands the same refusal. -/
theorem AlikeOutcome.of_refused {r : Refusal} (h : AlikeOutcome R q (.refused r) o) : o = .refused r := by
  cases h; rfl

end

/-! ### Two runs side by side -/

section
variable {R : Nat → Memory → Memory → Prop} {q : List Input} {s : State} {m : Memory}
  (hm : R s.payloadCount.toNat s.payload m) (hR : Unseen R)
include hm

/-- READ answers the same: no register's word is made of payload bytes (10_state.md R40-R49). -/
theorem alike_execRead (a : Byte) : AlikeOutcome R q (execRead a s) (execRead a (s.swap m q)) := by
  unfold execRead
  split
  · exact .next ⟨m, hm, rfl⟩
  · rw [State.swap_valid]
    split <;> exact .next ⟨m, hm, rfl⟩

include hR

/-- A field decode reads below the count alone (R62). -/
theorem Unseen.fieldDecode_swap (t : TypeTag) (lo hi : Nat) :
    (s.swap m q).fieldDecode t lo hi = s.fieldDecode t lo hi := by
  refine Option.ext fun v => ?_
  rw [State.fieldDecode_eq_some_iff, State.fieldDecode_eq_some_iff]
  refine and_congr_right fun hw => and_congr_right fun hc => ?_
  rw [State.swap_payloadCount] at hc
  have same : m.readLE lo (tagWidth t) = s.payload.readLE lo (tagWidth t) :=
    Memory.readLE_congr fun k hk => hR.reads hm _ (by omega)
  rw [State.swap_payload, same]

/-- Accept decodes the same reading and leaves the payload buffer (R170-R173). -/
theorem Unseen.accept_swap : (s.swap m q).accept = (s.accept.1.swap m q, s.accept.2) := by
  have same : (s.swap m q).decodeSchema = s.decodeSchema := by
    simp only [State.decodeSchema, hR.fieldDecode_swap hm]
  unfold State.accept
  rw [same]
  cases s.decodeSchema with
  | none => rfl
  | some fields =>
    obtain ⟨time, flow, dist, raw, qual⟩ := fields
    exact Prod.ext (((s.countSample.setDerr false).setReading time flow dist raw qual).integrate_swap m q time) rfl

/-- DECODE answers the same (41_field_decoder.md R146). -/
theorem Unseen.alike_decodeField (t : TypeTag) (lo hi : Byte) :
    (s.decodeField t lo hi).Alike R q ((s.swap m q).decodeField t lo hi) := by
  unfold State.decodeField
  rw [hR.fieldDecode_swap hm]
  split <;> exact ⟨m, hm, rfl⟩

/-- IN_PAYLOAD stores the same byte at the same index, or stops (R116). -/
theorem Unseen.alike_takePayloadByte (b : Byte) :
    AlikeOutcome R q (s.takePayloadByte b) ((s.swap m q).takePayloadByte b) := by
  by_cases hc : s.payloadCount.toNat < Config.payloadCap
  case pos =>
    have count : (s.payloadCount + 1).toNat = s.payloadCount.toNat + 1 := by
      rw [lt_payloadCap_iff] at hc
      bv_omega
    have appended := hR.append hm hc b
    rw [← count] at appended
    rw [State.takePayloadByte_of_lt s b hc, State.takePayloadByte_of_lt (s.swap m q) b hc]
    exact .next ⟨_, appended, rfl⟩
  case neg =>
    rw [State.takePayloadByte_of_ge s b hc, State.takePayloadByte_of_ge (s.swap m q) b hc]
    exact .fault _

/-- GOT_CKB: both frames are accepted with the same response, or neither is (R117, R118). -/
theorem Unseen.alike_takeCkb : s.takeCkb.Alike R q (s.swap m q).takeCkb := by
  by_cases ht : s.msgId = Config.targetId
  case pos =>
    have accepted : ((s.swap m q).setPstate .idle).accept = _ := hR.accept_swap (s := s.setPstate .idle) hm
    rw [State.takeCkb_of_target ht, State.takeCkb_of_target (s := s.swap m q) ht, accepted]
    exact ⟨m, by simpa [State.respond] using hm, rfl⟩
  case neg =>
    rw [State.takeCkb_of_other ht, State.takeCkb_of_other (s := s.swap m q) ht]
    exact ⟨m, hm, rfl⟩

/-- Every branch of the parser (R113-R121). -/
theorem Unseen.alike_parse (b : Byte) : AlikeOutcome R q (s.parse b) ((s.swap m q).parse b) := by
  unfold State.parse
  rw [State.swap_pstate]
  cases s.pstate
  case gotComp => exact .next ⟨m, hR.empty hm, rfl⟩
  case inPayload => exact hR.alike_takePayloadByte hm b
  case gotCkb => exact .next (hR.alike_takeCkb hm)
  all_goals exact .next ⟨m, hm, rfl⟩

/-- BYTE (R110). -/
theorem Unseen.alike_execByte (b : Byte) : AlikeOutcome R q (execByte b s) (execByte b (s.swap m q)) := by
  by_cases hterr : s.terr = true
  case pos =>
    rw [execByte_of_terr hterr, execByte_of_terr (s := s.swap m q) hterr]
    exact .next ⟨m, hm, rfl⟩
  rw [Bool.not_eq_true] at hterr
  by_cases hb : b = Config.sentinel
  case pos =>
    subst hb
    rw [execByte_of_sentinel hterr, execByte_of_sentinel (s := s.swap m q) hterr]
    exact .next ⟨m, hR.empty hm, rfl⟩
  case neg =>
    rw [execByte_of_ne hterr hb, execByte_of_ne (s := s.swap m q) hterr hb]
    exact hR.alike_parse hm b

/-- Every operation. -/
theorem Unseen.alike_exec (i : Instr) : AlikeOutcome R q (exec i s) (exec i (s.swap m q)) := by
  rcases instr_kinds i with ⟨b, rfl⟩ | rfl | rfl | ⟨a, rfl⟩ | ⟨t, lo, hi, rfl⟩
  · exact hR.alike_execByte hm b
  · exact .next ⟨m, hm, rfl⟩
  · exact .next ⟨m, hR.empty hm, rfl⟩
  · exact alike_execRead hm a
  · rw [exec_decodeWith, exec_decodeWith]
    exact .next (hR.alike_decodeField hm t lo hi)

/-- Every presented input. -/
theorem Unseen.alike_applyInput (i : Input) : AlikeOutcome R q (applyInput i s) (applyInput i (s.swap m q)) := by
  cases i with
  | resetPin => exact .next ⟨m, hR.empty hm, rfl⟩
  | command w =>
    change AlikeOutcome R q (applyWord w s) (applyWord w (s.swap m q))
    cases hw : decode w with
    | ok i =>
      rw [applyWord_of_decode_ok hw, applyWord_of_decode_ok hw]
      exact hR.alike_exec hm i
    | error e =>
      rw [applyWord_of_decode_error hw, applyWord_of_decode_error hw]
      exact .next ⟨m, hm, rfl⟩

/-- Every step: both take the oldest input (R70). -/
theorem Unseen.alike_step : AlikeOutcome R s.inputs.tail (step s) (step (s.swap m s.inputs)) := by
  cases hin : s.inputs with
  | nil =>
    rw [step_of_nil hin, step_of_nil (State.swap_inputs s m [])]
    exact .next ⟨m, hm, rfl⟩
  | cons i rest =>
    rw [step_of_cons hin, step_of_cons (State.swap_inputs s m (i :: rest))]
    exact hR.alike_applyInput (s := s.setInputs rest) hm i

end

/-! ### The queue (R70) -/

/-- An input does the same with another queue behind it, and leaves that queue. -/
theorem applyInput_with_queue (i : Input) (s : State) (q : List Input) :
    AlikeOutcome (fun _ m m' => m = m') q (applyInput i s) (applyInput i (s.setInputs q)) :=
  unseen_eq.alike_applyInput (m := s.payload) rfl i

/-- No input changes the queue behind it. -/
theorem applyInput_keeps_inputs {i : Input} {s t : State} (h : applyInput i s = .next t) : t.inputs = s.inputs := by
  have same : AlikeOutcome _ s.inputs (applyInput i s) (applyInput i s) := applyInput_with_queue i s s.inputs
  rw [h] at same
  obtain ⟨u, hu, m, -, rfl⟩ := same.of_next
  rw [Host.Outcome.next.inj hu, State.swap_inputs]

/-- A step takes the oldest input from the queue. -/
theorem step_inputs {s t : State} (h : step s = .next t) : t.inputs = s.inputs.tail := by
  cases hin : s.inputs with
  | nil =>
    rw [step_of_nil hin] at h
    exact (congrArg State.inputs (Host.Outcome.next.inj h)).symm.trans hin
  | cons i rest =>
    rw [step_of_cons hin] at h
    exact applyInput_keeps_inputs h

/-- Settles O48, by induction on the inputs in front: a step applies the first one before the queue behind it, the run
applies it without that queue. -/
theorem stepsAreTheRunOfTheQueue : Obligations.StepsAreTheRunOfTheQueue := by
  intro is rest
  induction is with
  | nil =>
    intro s hs
    obtain rfl : s.inputs = rest := hs
    rfl
  | cons i is ih =>
    intro s hs
    have both : AlikeOutcome _ (is ++ rest) (applyInput i { s with inputs := rest }) (core.step s) :=
      (step_of_cons hs : core.step s = _) ▸ applyInput_with_queue i (s.setInputs rest) (is ++ rest)
    cases hx : applyInput i { s with inputs := rest } with
    | fault f =>
      rw [hx] at both
      simp only [List.length_cons, Host.Core.run, runInputs, hx, both.of_fault]
    | refused r =>
      rw [hx] at both
      simp only [List.length_cons, Host.Core.run, runInputs, hx, both.of_refused]
    | next t =>
      rw [hx] at both
      obtain ⟨u, hu, m, rfl, rfl⟩ := both.of_next
      obtain rfl : t.inputs = rest := applyInput_keeps_inputs hx
      simp only [List.length_cons, Host.Core.run, runInputs, hx, hu]
      rw [ih (t.swap t.payload (is ++ t.inputs)) rfl,
        show ({ t.swap t.payload (is ++ t.inputs) with inputs := t.inputs } : State) = t from rfl]
      cases runInputs is t <;> rfl

/-! ### The bytes at or above the count (R62) -/

/-- Settles O10: a field decode answers only below the count, and a step of two states alike below it keeps them so. -/
theorem payloadAboveCountIsUnobservable : Obligations.PayloadAboveCountIsUnobservable := by
  refine ⟨fun s t lo hi v h => ?reads, fun s u hs hu hsame => ?step⟩
  case reads =>
    obtain ⟨hw, hc, -⟩ := (s.fieldDecode_eq_some_iff t lo hi v).mp h
    exact ⟨by cases t <;> decide, hw ▸ hc⟩
  case step =>
    obtain ⟨hswap, hread⟩ := hsame
    have both := unseen_alikeBelow.alike_step (s := s) ⟨hs, hu, hread⟩
    rw [show s.swap u.payload s.inputs = u from hswap.symm] at both
    refine ⟨fun s' hs' => ?_, fun f hf => ?_⟩
    · rw [hs'] at both
      obtain ⟨u', hu', m, ⟨-, -, hm⟩, rfl⟩ := both.of_next
      refine ⟨_, hu', ⟨?_, hm⟩, rfl⟩
      rw [← step_inputs hs']
      rfl
    · rw [hf] at both
      exact both.of_fault

end Sys2Proof.Machine
end

section
/-! SUPPORT. Command words as their five fields, and the opcode table: the decoder and the encoder undo each other, a
word decodes to an operation exactly in that operation's row, and the rows are disjoint (30_encoding.md R85-R87, R91,
R94). -/

namespace Sys2Proof

/-! ### A word is its five fields (R85) -/

/-- Two words with the same five fields are the same word. -/
theorem word_eq_iff_fields (v w : Word) :
    v = w ↔ opField v = opField w ∧ rsvField v = rsvField w ∧ tagField v = tagField w ∧ hiField v = hiField w ∧
      loField v = loField w := by
  constructor
  case mp => rintro rfl; exact ⟨rfl, rfl, rfl, rfl, rfl⟩
  case mpr =>
    rintro ⟨hop, hrsv, htag, hhi, hlo⟩
    simp only [opField, rsvField, tagField, hiField, loField, ← BitVec.toNat_inj, BitVec.extractLsb'_toNat,
      Nat.shiftRight_eq_div_pow] at hop hrsv htag hhi hlo
    bv_omega

theorem opField_and (v w : Word) : opField (v &&& w) = opField v &&& opField w := BitVec.extractLsb'_and
theorem rsvField_and (v w : Word) : rsvField (v &&& w) = rsvField v &&& rsvField w := BitVec.extractLsb'_and
theorem tagField_and (v w : Word) : tagField (v &&& w) = tagField v &&& tagField w := BitVec.extractLsb'_and
theorem hiField_and (v w : Word) : hiField (v &&& w) = hiField v &&& hiField w := BitVec.extractLsb'_and
theorem loField_and (v w : Word) : loField (v &&& w) = loField v &&& loField w := BitVec.extractLsb'_and

/-- The words of one assembled form, field by field. -/
theorem assemble_eq_iff (op : BitVec 4) (tag : BitVec 3) (hi lo : Byte) (w : Word) :
    assemble op tag hi lo = w ↔
      opField w = op ∧ rsvField w = 0 ∧ tagField w = tag ∧ hiField w = hi ∧ loField w = lo := by
  simp only [eq_comm (b := w), word_eq_iff_fields, opField_assemble, rsvField_assemble, tagField_assemble,
    hiField_assemble, loField_assemble]

/-- A row whose mask covers all fields but LO: the word is assembled from the row's OP and its own LO. -/
theorem and_loMask_iff (op : BitVec 4) (w : Word) :
    w &&& 0xFFFFFF00#32 = assemble op 0 0 0 ↔ assemble op 0 0 (loField w) = w := by
  have hop : opField (w &&& 0xFFFFFF00#32) = opField w := (opField_and _ _).trans BitVec.and_allOnes
  have hrsv : rsvField (w &&& 0xFFFFFF00#32) = rsvField w := (rsvField_and _ _).trans BitVec.and_allOnes
  have htag : tagField (w &&& 0xFFFFFF00#32) = tagField w := (tagField_and _ _).trans BitVec.and_allOnes
  have hhi : hiField (w &&& 0xFFFFFF00#32) = hiField w := (hiField_and _ _).trans BitVec.and_allOnes
  have hlo : loField (w &&& 0xFFFFFF00#32) = 0 := (loField_and _ _).trans BitVec.and_zero
  rw [eq_comm, assemble_eq_iff, assemble_eq_iff]
  simp only [hop, hrsv, htag, hhi, hlo, and_true]

/-- A row whose mask covers OP, RSV_HI and TAG: the word is assembled from the row's OP and TAG and its own HI and LO. -/
theorem and_offsetMask_iff (op : BitVec 4) (tag : BitVec 3) (w : Word) :
    w &&& 0xFFFF0000#32 = assemble op tag 0 0 ↔ assemble op tag (hiField w) (loField w) = w := by
  have hop : opField (w &&& 0xFFFF0000#32) = opField w := (opField_and _ _).trans BitVec.and_allOnes
  have hrsv : rsvField (w &&& 0xFFFF0000#32) = rsvField w := (rsvField_and _ _).trans BitVec.and_allOnes
  have htag : tagField (w &&& 0xFFFF0000#32) = tagField w := (tagField_and _ _).trans BitVec.and_allOnes
  have hhi : hiField (w &&& 0xFFFF0000#32) = 0 := (hiField_and _ _).trans BitVec.and_zero
  have hlo : loField (w &&& 0xFFFF0000#32) = 0 := (loField_and _ _).trans BitVec.and_zero
  rw [eq_comm, assemble_eq_iff, assemble_eq_iff]
  simp only [hop, hrsv, htag, hhi, hlo, and_true]

/-! ### Decoding and encoding undo each other -/

/-- The word of an operation decodes to it: the decoder's check of OP finds the operation's row, and the reserved
fields of an assembled word are 0. -/
theorem decode_encode (i : Instr) : decode (encode i) = .ok i := by
  rcases Machine.instr_kinds i with ⟨b, rfl⟩ | rfl | rfl | ⟨a, rfl⟩ | ⟨t, lo, hi, rfl⟩
  case inr.inr.inr.inr =>
    have htag := (TypeTag.ofCode_eq_some_iff t.code t).mpr rfl
    simp [encode_decodeWith, decode, decodeDecode, htag]
  all_goals simp [encode, decode]

/-- A word decodes to an operation exactly when it is the operation's word. -/
theorem decode_eq_ok_iff (w : Word) (i : Instr) : decode w = .ok i ↔ encode i = w :=
  ⟨encode_of_decode_ok, fun h => h ▸ decode_encode i⟩

/-- Settles O1, for every operation at once (each is well formed): `decode_encode`. -/
theorem encodedOperationDecodesBack : Obligations.EncodedOperationDecodesBack :=
  fun i _ => decode_encode i

/-- Settles O2: the decoder checks every reserved field, so the word is assembled again from what it read
(`encode_of_decode_ok`). -/
theorem decodedWordIsItsEncoding : Obligations.DecodedWordIsItsEncoding :=
  fun _ _ => encode_of_decode_ok

/-! ### The rows of the opcode table (R86) -/

/-- The operation of `i`'s row with the operands of a word: LO / DATA / ADDR is the low byte, HI the next (R87). -/
def Instr.withOperandsOf (i : Instr) (w : Word) : Instr :=
  match i with
  | .byte _ => .byte (loField w)
  | .rxerr => .rxerr
  | .read _ => .read (loField w)
  | .decodeI16x2 _ _ => .decodeI16x2 (loField w) (hiField w)
  | .decodeF32x2 _ _ => .decodeF32x2 (loField w) (hiField w)
  | .decodeF32x1 _ _ => .decodeF32x1 (loField w) (hiField w)
  | .decodeU8x1 _ _ => .decodeU8x1 (loField w) (hiField w)
  | .decodeU64x1 _ _ => .decodeU64x1 (loField w) (hiField w)
  | .reset => .reset

theorem Instr.row_withOperandsOf (i : Instr) (w : Word) : (i.withOperandsOf w).row = i.row := by
  cases i <;> rfl

theorem Instr.withOperandsOf_decodeWith (t : TypeTag) (lo hi : Byte) (w : Word) :
    (Instr.decodeWith t lo hi).withOperandsOf w = .decodeWith t (loField w) (hiField w) := by
  cases t <;> rfl

theorem Instr.withOperandsOf_encode (i : Instr) : i.withOperandsOf (encode i) = i := by
  rcases Machine.instr_kinds i with ⟨b, rfl⟩ | rfl | rfl | ⟨a, rfl⟩ | ⟨t, lo, hi, rfl⟩
  case inr.inr.inr.inr => simp [withOperandsOf_decodeWith, encode_decodeWith]
  all_goals simp [withOperandsOf, encode]

/-- The row of a DECODE is its OP and TAG. -/
theorem Instr.row_decodeWith (t : TypeTag) (lo hi : Byte) :
    (Instr.decodeWith t lo hi).row = (assemble 0x4 t.code 0 0, 0xFFFF0000#32) := by
  cases t <;> rfl

/-- A word lies in an operation's row exactly when it is the word of that operation with the word's own operands. -/
theorem Instr.rowMatches_iff (i : Instr) (w : Word) : i.rowMatches w = true ↔ encode (i.withOperandsOf w) = w := by
  rw [rowMatches, beq_iff_eq]
  rcases Machine.instr_kinds i with ⟨b, rfl⟩ | rfl | rfl | ⟨a, rfl⟩ | ⟨t, lo, hi, rfl⟩
  · exact and_loMask_iff 0x1 w
  · rw [show w &&& Instr.rxerr.row.2 = w from BitVec.and_allOnes, eq_comm]
    rfl
  · rw [show w &&& Instr.reset.row.2 = w from BitVec.and_allOnes, eq_comm]
    rfl
  · exact and_loMask_iff 0x3 w
  · rw [row_decodeWith, withOperandsOf_decodeWith, encode_decodeWith]
    exact and_offsetMask_iff 0x4 t.code w

/-- A word in an operation's row decodes to that operation, with the word's own operands. -/
theorem decode_of_rowMatches {i : Instr} {w : Word} (h : i.rowMatches w = true) :
    decode w = .ok (i.withOperandsOf w) :=
  (decode_eq_ok_iff w _).mpr ((i.rowMatches_iff w).mp h)

/-- A word decodes to an operation exactly when it lies in the operation's row and has its operands. -/
theorem decode_eq_ok_iff_row (w : Word) (i : Instr) :
    decode w = .ok i ↔ i.rowMatches w = true ∧ i.withOperandsOf w = i := by
  rw [decode_eq_ok_iff, Instr.rowMatches_iff]
  constructor
  · rintro rfl
    exact ⟨congrArg encode i.withOperandsOf_encode, i.withOperandsOf_encode⟩
  · rintro ⟨hrow, hi⟩
    rwa [hi] at hrow

/-- Settles O4: each clause is one row of `decode_eq_ok_iff_row` with its mask, match and operands written out; the
rows of RXERR and RESET hold one word each. -/
theorem decoderFollowsTheOpcodeTable : Obligations.DecoderFollowsTheOpcodeTable := by
  intro w
  have row := decode_eq_ok_iff_row w
  simp only [Instr.rowMatches, beq_iff_eq] at row
  refine ⟨fun b => ?byte, ?rxerr, fun a => ?read, fun lo hi => ?i16x2, fun lo hi => ?f32x2, fun lo hi => ?f32x1,
    fun lo hi => ?u8x1, fun lo hi => ?u64x1, ?reset⟩
  case rxerr => exact (decode_eq_ok_iff w .rxerr).trans eq_comm
  case reset => exact (decode_eq_ok_iff w .reset).trans eq_comm
  all_goals simp [row, Instr.row, Instr.withOperandsOf, loField, hiField, eq_comm, and_comm]

/-- Settles O5: a word of two rows decodes to one operation, so the rows are the same; a word decodes exactly when some
row holds it. -/
theorem opcodeRowsAreDisjointAndTotal : Obligations.OpcodeRowsAreDisjointAndTotal := by
  refine ⟨fun w i j hi hj => ?disjoint, fun w => ⟨fun hno => ?illegal, ?noRow⟩⟩
  case disjoint =>
    have same : i.withOperandsOf w = j.withOperandsOf w :=
      Except.ok.inj ((decode_of_rowMatches hi).symm.trans (decode_of_rowMatches hj))
    rw [← i.row_withOperandsOf w, same, j.row_withOperandsOf]
  case illegal =>
    cases hw : decode w with
    | ok i => exact absurd ((decode_eq_ok_iff_row w i).mp hw).1 (by simp [hno])
    | error e => exact ⟨e, rfl⟩
  case noRow =>
    rintro ⟨e, he⟩ i
    rw [Bool.eq_false_iff]
    intro hi
    exact nomatch he.symm.trans (decode_of_rowMatches hi)

/-- Settles O6: each worked word is evaluated. -/
theorem workedEncodingsDecode : Obligations.WorkedEncodingsDecode := by
  refine ⟨?_, ?_, ?_, ?_, ?_, ?_, ?_, ?_, ?_, ?_⟩ <;> decide

end Sys2Proof
end

section
/-! SUPPORT. The ILLEGAL words: the decoder OP by OP, the three checks of 30_encoding.md R88 in the decoder's fields, and
the one answer the decoder gives a word by the first check it fails (R89). -/

namespace Sys2Proof

open Machine

/-! ### The decoder, OP by OP (R86) -/

section

variable {w : Word}

theorem decode_of_byteOp (h : opField w = 1) :
    decode w = if rsvField w = 0 ∧ tagField w = 0 ∧ hiField w = 0 then .ok (.byte (loField w))
      else .error .reservedBits :=
  if_pos h

theorem decode_of_rxerrOp (h : opField w = 2) :
    decode w = if rsvField w = 0 ∧ tagField w = 0 ∧ hiField w = 0 ∧ loField w = 0 then .ok .rxerr
      else .error .reservedBits := by
  simp only [decode, h, reduceIte, BitVec.reduceEq]

theorem decode_of_readOp (h : opField w = 3) :
    decode w = if rsvField w = 0 ∧ tagField w = 0 ∧ hiField w = 0 then .ok (.read (loField w))
      else .error .reservedBits := by
  simp only [decode, h, reduceIte, BitVec.reduceEq]

theorem decode_of_decodeOp (h : opField w = 4) : decode w = decodeDecode w := by
  simp only [decode, h, reduceIte, BitVec.reduceEq]

theorem decodeDecode_of_rsv_ne (h : rsvField w ≠ 0) : decodeDecode w = .error .reservedBits :=
  if_pos h

theorem decodeDecode_of_tag {t : TypeTag} (h : rsvField w = 0) (ht : TypeTag.ofCode (tagField w) = some t) :
    decodeDecode w = .ok (.decodeWith t (loField w) (hiField w)) := by
  rw [decodeDecode, if_neg (not_not_intro h), ht]

theorem decodeDecode_of_no_tag (h : rsvField w = 0) (ht : TypeTag.ofCode (tagField w) = none) :
    decodeDecode w = .error .reservedTag := by
  rw [decodeDecode, if_neg (not_not_intro h), ht]

theorem decode_of_resetOp (h : opField w = 15) :
    decode w = if rsvField w = 0 ∧ tagField w = 0 ∧ hiField w = 0 ∧ loField w = 0 then .ok .reset
      else .error .reservedBits := by
  simp only [decode, h, reduceIte, BitVec.reduceEq]

end

/-! ### The checks in the decoder's fields (R88) -/

/-- Check (a) passes exactly the five assigned values of OP. -/
theorem not_rejectsOp_iff (w : Word) :
    ¬ rejectsOp w ↔ opField w = 1 ∨ opField w = 2 ∨ opField w = 3 ∨ opField w = 4 ∨ opField w = 15 := by
  change ¬ (opField w = 0 ∨ 5 ≤ (opField w).toNat ∧ (opField w).toNat ≤ 14) ↔ _
  generalize opField w = op
  revert op
  decide

/-- Check (b) looks at RSV_HI for every OP, at TAG and HI for every OP but DECODE, at LO for RXERR and RESET (R85). -/
theorem rejectsBits_iff (w : Word) :
    rejectsBits w ↔ rsvField w ≠ 0 ∨ (opField w ≠ 4 ∧ (tagField w ≠ 0 ∨ hiField w ≠ 0)) ∨
      ((opField w = 2 ∨ opField w = 15) ∧ loField w ≠ 0) :=
  Iff.rfl

/-- Check (b) of an OP with its operand in LO: BYTE and READ. -/
theorem not_rejectsBits_iff_of_loOperand {w : Word} (h : opField w = 1 ∨ opField w = 3) :
    ¬ rejectsBits w ↔ rsvField w = 0 ∧ tagField w = 0 ∧ hiField w = 0 := by
  rw [rejectsBits_iff]
  rcases h with h | h <;> simp [h]

/-- Check (b) of an OP without operands: RXERR and RESET. -/
theorem not_rejectsBits_iff_of_noOperand {w : Word} (h : opField w = 2 ∨ opField w = 15) :
    ¬ rejectsBits w ↔ rsvField w = 0 ∧ tagField w = 0 ∧ hiField w = 0 ∧ loField w = 0 := by
  rw [rejectsBits_iff]
  rcases h with h | h <;> simp [h, and_assoc]

/-- Check (b) of DECODE. -/
theorem not_rejectsBits_iff_of_decodeOp {w : Word} (h : opField w = 4) : ¬ rejectsBits w ↔ rsvField w = 0 := by
  simp [rejectsBits_iff, h]

/-- Check (c) rejects a DECODE whose TAG names no type. -/
theorem rejectsTag_iff (w : Word) : rejectsTag w ↔ opField w = 4 ∧ TypeTag.ofCode (tagField w) = none := by
  rw [TypeTag.ofCode_eq_none_iff]
  rfl

/-! ### The first check a word fails (R89) -/

/-- A word that fails check (a). -/
theorem decode_of_rejectsOp {w : Word} (h : rejectsOp w) : decode w = .error .reservedOp := by
  obtain ⟨h1, h2, h3, h4, h15⟩ : opField w ≠ 1 ∧ opField w ≠ 2 ∧ opField w ≠ 3 ∧ opField w ≠ 4 ∧ opField w ≠ 15 := by
    simpa only [not_or] using mt (not_rejectsOp_iff w).mpr (not_not_intro h)
  simp only [decode, if_neg h1, if_neg h2, if_neg h3, if_neg h4, if_neg h15]

/-- A word that passes check (a) and fails check (b). -/
theorem decode_of_rejectsBits {w : Word} (hop : ¬ rejectsOp w) (h : rejectsBits w) :
    decode w = .error .reservedBits := by
  rcases (not_rejectsOp_iff w).mp hop with hop | hop | hop | hop | hop
  · rw [decode_of_byteOp hop, if_neg fun hz => (not_rejectsBits_iff_of_loOperand (.inl hop)).mpr hz h]
  · rw [decode_of_rxerrOp hop, if_neg fun hz => (not_rejectsBits_iff_of_noOperand (.inl hop)).mpr hz h]
  · rw [decode_of_readOp hop, if_neg fun hz => (not_rejectsBits_iff_of_loOperand (.inr hop)).mpr hz h]
  · rw [decode_of_decodeOp hop, decodeDecode_of_rsv_ne fun hz => (not_rejectsBits_iff_of_decodeOp hop).mpr hz h]
  · rw [decode_of_resetOp hop, if_neg fun hz => (not_rejectsBits_iff_of_noOperand (.inr hop)).mpr hz h]

/-- A word that passes checks (a) and (b) and fails check (c). -/
theorem decode_of_rejectsTag {w : Word} (hbits : ¬ rejectsBits w) (h : rejectsTag w) :
    decode w = .error .reservedTag := by
  obtain ⟨hop, htag⟩ := (rejectsTag_iff w).mp h
  rw [decode_of_decodeOp hop, decodeDecode_of_no_tag ((not_rejectsBits_iff_of_decodeOp hop).mp hbits) htag]

/-- A word that passes all three checks. -/
theorem decodes_of_no_check {w : Word} (hop : ¬ rejectsOp w) (hbits : ¬ rejectsBits w) (htag : ¬ rejectsTag w) :
    ∃ i, decode w = .ok i := by
  rcases (not_rejectsOp_iff w).mp hop with hop | hop | hop | hop | hop
  · rw [decode_of_byteOp hop, if_pos ((not_rejectsBits_iff_of_loOperand (.inl hop)).mp hbits)]
    exact ⟨_, rfl⟩
  · rw [decode_of_rxerrOp hop, if_pos ((not_rejectsBits_iff_of_noOperand (.inl hop)).mp hbits)]
    exact ⟨_, rfl⟩
  · rw [decode_of_readOp hop, if_pos ((not_rejectsBits_iff_of_loOperand (.inr hop)).mp hbits)]
    exact ⟨_, rfl⟩
  · have hrsv := (not_rejectsBits_iff_of_decodeOp hop).mp hbits
    cases ht : TypeTag.ofCode (tagField w) with
    | some t => exact ⟨_, (decode_of_decodeOp hop).trans (decodeDecode_of_tag hrsv ht)⟩
    | none => exact absurd ((rejectsTag_iff w).mpr ⟨hop, ht⟩) htag
  · rw [decode_of_resetOp hop, if_pos ((not_rejectsBits_iff_of_noOperand (.inr hop)).mp hbits)]
    exact ⟨_, rfl⟩

/-- What the decoder does with a word: the first check it fails names the error, and a word that fails none decodes. -/
theorem decode_cases (w : Word) :
    (rejectsOp w ∧ decode w = .error .reservedOp) ∨
    (¬ rejectsOp w ∧ rejectsBits w ∧ decode w = .error .reservedBits) ∨
    (¬ rejectsOp w ∧ ¬ rejectsBits w ∧ rejectsTag w ∧ decode w = .error .reservedTag) ∨
    (¬ rejectsOp w ∧ ¬ rejectsBits w ∧ ¬ rejectsTag w ∧ ∃ i, decode w = .ok i) := by
  by_cases hop : rejectsOp w
  · exact .inl ⟨hop, decode_of_rejectsOp hop⟩
  by_cases hbits : rejectsBits w
  · exact .inr (.inl ⟨hop, hbits, decode_of_rejectsBits hop hbits⟩)
  by_cases htag : rejectsTag w
  · exact .inr (.inr (.inl ⟨hop, hbits, htag, decode_of_rejectsTag hbits htag⟩))
  · exact .inr (.inr (.inr ⟨hop, hbits, htag, decodes_of_no_check hop hbits htag⟩))

/-- The word of a READ, its address put into the low byte. -/
theorem encode_read (addr : Byte) : encode (.read addr) = 0x30000000#32 ||| addr.setWidth 32 :=
  rfl

/-- Settles O3: the four cases of `decode_cases` exclude each other, and an ILLEGAL word raises CMD_ERR. -/
theorem illegalWordsAnswerCmdErr : Obligations.IllegalWordsAnswerCmdErr := by
  intro w
  refine ⟨?illegal, ?opCheck, ?bitsCheck, ?tagCheck, fun e s he => applyWord_of_decode_error he s, fun addr => ?read⟩
  case read => rw [← encode_read, decode_encode]
  all_goals
    rcases decode_cases w with ⟨hop, h⟩ | ⟨hop, hbits, h⟩ | ⟨hop, hbits, htag, h⟩ | ⟨hop, hbits, htag, i, h⟩ <;>
      simp [*]

end Sys2Proof
end

section
/-! SUPPORT. The one response of an operation: its code, data and event, operation by operation (30_encoding.md R90,
60_exceptions.md R230). -/

namespace Sys2Proof.Machine

/-- A response that is no event, with data only if its code is OK: what READ and DECODE answer (R90). -/
def Response.Plain (r : Response) : Prop := r.ev = false ∧ (r.code ≠ .ok → r.data = 0)

/-- READ answers plainly. -/
theorem execRead_plain (addr : Byte) (s : State) : ∃ r, execRead addr s = .next (s.setRsp (some r)) ∧ r.Plain := by
  unfold execRead
  split
  · exact ⟨_, rfl, rfl, fun _ => rfl⟩
  · split
    · exact ⟨_, rfl, rfl, fun _ => rfl⟩
    · exact ⟨_, rfl, rfl, fun h => absurd rfl h⟩

/-- The host's field decode answers plainly. -/
theorem State.decodeField_plain (s : State) (t : TypeTag) (lo hi : Byte) :
    ∃ r, s.decodeField t lo hi = s.setRsp (some r) ∧ r.Plain := by
  unfold State.decodeField
  split
  · exact ⟨_, rfl, rfl, fun _ => rfl⟩
  · exact ⟨_, rfl, rfl, fun h => absurd rfl h⟩

/-- BYTE answers without data, and with the event exactly where it completes an accepted frame (R90). -/
theorem execByte_response {b : Byte} {s t : State} (h : execByte b s = .next t) :
    ∃ code ev, t.rsp = some ⟨code, 0, ev⟩ ∧ (ev = true ↔ s.completesFrame b) := by
  by_cases hc : s.completesFrame b
  case pos =>
    rw [eq_of_completesFrame hc h]
    exact ⟨_, true, rfl, iff_of_true rfl hc⟩
  case neg =>
    have silent (c : RspCode) (ht : t.rsp = some ⟨c, 0, false⟩) :
        ∃ code ev, t.rsp = some ⟨code, 0, ev⟩ ∧ (ev = true ↔ s.completesFrame b) :=
      ⟨c, false, ht, iff_of_false nofun hc⟩
    rcases execByte_cases h with ⟨-, rfl⟩ | ⟨-, -, rfl⟩ | ⟨hterr, hb, branch⟩
    · exact silent _ rfl
    · exact silent _ rfl
    · rcases branch with ⟨-, rfl⟩ | ⟨-, rfl⟩ | ⟨-, rfl⟩ | ⟨-, rfl⟩ | ⟨-, rfl⟩ | ⟨-, rfl⟩ | ⟨-, -, rfl⟩ | ⟨-, rfl⟩ |
        ⟨-, -, rfl⟩ | ⟨hp, hm, -⟩
      case inr.inr.inr.inr.inr.inr.inr.inr.inr => exact absurd ⟨hterr, hb, hp, hm⟩ hc
      all_goals exact silent _ rfl

/-- Settles O40, operation by operation: BYTE by `execByte_response`, RXERR and RESET with no data and no event, READ and
DECODE plainly. -/
theorem everyOperationGivesOneResponse : Obligations.EveryOperationGivesOneResponse := by
  refine ⟨fun i s t h => ?response, rfl, rfl, rfl, rfl, rfl, rfl⟩
  rcases instr_kinds i with ⟨b, rfl⟩ | rfl | rfl | ⟨a, rfl⟩ | ⟨tag, lo, hi, rfl⟩
  · obtain ⟨code, ev, hr, hev⟩ := execByte_response h
    refine ⟨_, hr, hev.trans ?_, fun _ => rfl, fun _ _ => rfl⟩
    simp
  · obtain rfl := Host.Outcome.next.inj h
    exact ⟨_, rfl, by simp, fun _ => rfl, fun _ _ => rfl⟩
  · obtain rfl := Host.Outcome.next.inj h
    exact ⟨_, rfl, by simp, fun _ => rfl, fun _ _ => rfl⟩
  · obtain ⟨r, hr, hev, hdata⟩ := execRead_plain a s
    obtain rfl := Host.Outcome.next.inj (hr.symm.trans h)
    exact ⟨r, rfl, by simp [hev], hdata, fun hno _ => absurd rfl (hno a)⟩
  · obtain ⟨r, hr, hev, hdata⟩ := s.decodeField_plain tag lo hi
    rw [exec_decodeWith, hr] at h
    obtain rfl := Host.Outcome.next.inj h
    refine ⟨r, rfl, ?_, hdata, fun _ hno => absurd rfl (hno tag lo hi)⟩
    cases tag <;> simp [hev, Instr.decodeWith]

/-- Settles O7: LEN holds the number of payload bytes of a well-formed FRAME, which is below 256; STATUS is never
gated. -/
theorem pseudoInstructionsExpand : Obligations.PseudoInstructionsExpand := by
  refine ⟨fun _ => rfl, fun seq sys comp msgid payload cka ckb hwf => ?frame, rfl, fun s => ?nop, rfl⟩
  case frame =>
    have hlen : payload.length ≤ 255 := of_decide_eq_true hwf
    refine ⟨BitVec.ofNat 8 payload.length, ?_, ?_⟩
    · rw [BitVec.toNat_ofNat, Nat.mod_eq_of_lt (by omega)]
    · simp [Pseudo.expand, frameBytes, Config.sentinel]
  case nop => exact exec_read_of_readable (r := .status) rfl (.inl rfl)

end Sys2Proof.Machine
end

section
/-! SUPPORT. BYTE as the rules of 40_frame_parser.md give it, one branch per parser state (R111-R119, R121). -/

namespace Sys2Proof.Machine

/-- Settles O15: the refusal is BYTE's first branch, and every operation but RESET lets TERR stand (`exec_lasts`). -/
theorem byteIsRefusedWhileTerr : Obligations.ByteIsRefusedWhileTerr := by
  refine ⟨fun b s hterr => execByte_of_terr hterr, fun i s t h hs ht => ?onlyReset⟩
  case onlyReset =>
    by_contra hi
    exact absurd ((exec_lasts h hi).terr hs) (by simp [ht])

/-- Settles O16: the sentinel's branch comes before that of the parser state. -/
theorem sentinelRestartsFraming : Obligations.SentinelRestartsFraming :=
  fun _ hterr => execByte_of_sentinel hterr

/-- BYTE of a non-sentinel byte, from what the branch of the parser state answers. -/
theorem execByte_of_parse {b : Byte} {s t : State} (hterr : s.terr = false) (hb : b ≠ Config.sentinel)
    (h : s.parse b = .next t) : execByte b s = .next t :=
  (execByte_of_ne hterr hb).trans h

/-- Settles O17, by the branch of each of the six parser states. -/
theorem headerBytesAdvanceTheParser : Obligations.HeaderBytesAdvanceTheParser := by
  intro b s hterr hb
  refine ⟨fun hp => ?idle, fun hp => ?len, fun hp => ?seq, fun hp => ?sys, fun hp => ?comp, fun hp => ?cka⟩
  case idle => exact execByte_of_parse hterr hb (State.parse_idle b hp)
  case len => exact execByte_of_parse hterr hb (State.parse_gotStx b hp)
  case seq => exact execByte_of_parse hterr hb (State.parse_gotLen b hp)
  case sys => exact execByte_of_parse hterr hb (State.parse_gotSeq b hp)
  case comp => exact execByte_of_parse hterr hb (State.parse_gotSys b hp)
  case cka => exact execByte_of_parse hterr hb (State.parse_gotCka b hp)

/-- GOT_COMP (R115). -/
theorem execByte_of_gotComp {b : Byte} {s : State} (hterr : s.terr = false) (hb : b ≠ Config.sentinel)
    (hp : s.pstate = .gotComp) :
    execByte b s = .next
      { s with msgId := b, payloadCount := 0, pstate := afterMsgId s.declLen, rsp := some okRsp } :=
  execByte_of_parse hterr hb (State.parse_gotComp b hp)

/-- Settles O18: a payload of declared length 0 is complete before its first byte. -/
theorem messageIdByteStartsThePayload : Obligations.MessageIdByteStartsThePayload := by
  intro b s hterr hb hp
  have hx := execByte_of_gotComp hterr hb hp
  refine ⟨fun hlen => ?payload, fun hlen => ?complete⟩
  case payload =>
    have hne : s.declLen ≠ 0 := by bv_omega
    rwa [show afterMsgId s.declLen = .inPayload from if_neg hne] at hx
  case complete => rwa [show afterMsgId s.declLen = .gotCka from if_pos hlen] at hx

/-- The state after payload byte `b` is stored at index PAYLOAD_COUNT (R116). -/
def State.storePayloadByte (s : State) (b : Byte) : State :=
  { s with
    payload := s.payload.write s.payloadCount.toNat b
    payloadCount := s.payloadCount + 1
    pstate := if s.payloadCount + 1 = s.declLen then .gotCka else .inPayload
    rsp := some okRsp }

/-- IN_PAYLOAD with an index left (R116). -/
theorem State.parse_inPayload_of_lt {s : State} (b : Byte) (hp : s.pstate = .inPayload)
    (hcap : s.payloadCount.toNat < Config.payloadCap) : s.parse b = .next (s.storePayloadByte b) := by
  rw [State.parse_inPayload b hp, State.takePayloadByte_of_lt s b hcap, hp]
  rfl

/-- The count goes up by one where an index is left: it does not wrap (R110). -/
theorem State.storePayloadByte_count {s : State} (b : Byte) (hcap : s.payloadCount.toNat < Config.payloadCap) :
    (s.storePayloadByte b).payloadCount.toNat = s.payloadCount.toNat + 1 := by
  change (s.payloadCount + 1).toNat = _
  simp only [Config.payloadCap] at hcap
  bv_omega

/-- The stored byte stands at its index, and every other index reads as before (R116). -/
theorem State.storePayloadByte_read {s : State} (b : Byte) (hm : s.payload.wf) (a : Nat) :
    (s.storePayloadByte b).payload.read a = if a = s.payloadCount.toNat then b else s.payload.read a :=
  Memory.read_write hm.1 _ _ _

/-- Settles O19, by the laws of a payload write. -/
theorem payloadByteIsAppended : Obligations.PayloadByteIsAppended := by
  intro b s hterr hb hp hm hcap
  refine ⟨s.storePayloadByte b, execByte_of_parse hterr hb (State.parse_inPayload_of_lt b hp hcap), rfl,
    s.storePayloadByte_count b hcap, ?stored, fun a ha => ?others, Memory.write_wf hm hcap b⟩
  case stored => rw [State.storePayloadByte_read b hm, if_pos rfl]
  case others => rw [State.storePayloadByte_read b hm, if_neg ha]

/-- Settles O22: Accept counts the frame and leaves the parser's elements (the lemmas `State.accept_…`). -/
theorem targetFrameCompletesInIdle : Obligations.TargetFrameCompletesInIdle := by
  intro b s hc
  refine ⟨_, _, execByte_of_completesFrame hc, ?idle, rfl, ?count, ?frame⟩
  case idle => simp
  case count => simp [saturatingSucc_toNat]
  case frame => simp

end Sys2Proof.Machine
end

section
/-! SUPPORT. Bytes delivered one after another: a feed byte by byte, and a feed cut in two (40_frame_parser.md R110,
R117). -/

namespace Sys2Proof.Machine

theorem feed_nil (s : State) : feed [] s = .next (s, []) := rfl

/-- The first byte's response, then those of the rest. -/
theorem feed_cons {b : Byte} {bs : List Byte} {s u t : State} {r : Response} {rs : List Response}
    (hx : execByte b s = .next u) (hr : u.rsp = some r) (h : feed bs u = .next (t, rs)) :
    feed (b :: bs) s = .next (t, r :: rs) := by
  have hi : applyInput (.command (encode (.byte b))) s = .next u :=
    (applyWord_of_decode_ok (decode_encode (.byte b)) s).trans hx
  unfold feed byteInputs at *
  simp only [List.map_cons, runInputs, hi, h, hr, Option.toList, List.singleton_append]

/-- Two lists of bytes in order (20_memory.md R70). -/
theorem feed_append {as bs : List Byte} {s u t : State} {qs rs : List Response} (h : feed as s = .next (u, qs))
    (h' : feed bs u = .next (t, rs)) : feed (as ++ bs) s = .next (t, qs ++ rs) := by
  unfold feed byteInputs at *
  rw [List.map_append, runInputs_append, h]
  simp only [h']

/-- GOT_CKB of a non-target frame (R117). -/
theorem execByte_of_otherFrame {b : Byte} {s : State} (hterr : s.terr = false) (hb : b ≠ Config.sentinel)
    (hp : s.pstate = .gotCkb) (hm : s.msgId ≠ Config.targetId) : execByte b s = .next s.done :=
  execByte_of_parse hterr hb ((State.parse_gotCkb b hp).trans (congrArg _ (State.takeCkb_of_other hm)))

/-- A byte takes a non-target frame out of GOT_CKB only if it is a sentinel (R117). -/
theorem eq_sentinel_of_leaves_gotCkb {b : Byte} {s t : State} (hp : s.pstate = .gotCkb)
    (hm : s.msgId ≠ Config.targetId) (h : execByte b s = .next t) (ht : t.pstate ≠ .gotCkb) :
    b = Config.sentinel := by
  by_contra hb
  refine ht ?_
  cases hterr : s.terr with
  | true =>
    obtain rfl := Host.Outcome.next.inj ((execByte_of_terr hterr).symm.trans h)
    exact hp
  | false =>
    obtain rfl := Host.Outcome.next.inj ((execByte_of_otherFrame hterr hb hp hm).symm.trans h)
    exact hp

/-- Settles O21: the bytes by induction, each consumed in the same state; then operation by operation what can leave
that state. -/
theorem nonTargetFrameStaysInGotCkb : Obligations.NonTargetFrameStaysInGotCkb := by
  refine ⟨fun bs => ?consumed, fun i s t hp hm h ht => ?leaves⟩
  case consumed =>
    induction bs with
    | nil => exact fun s _ _ _ _ => ⟨s, feed_nil s, rfl⟩
    | cons b bs ih =>
      intro s hterr hp hm hbs
      obtain ⟨hb, hrest⟩ := List.forall_mem_cons.mp hbs
      obtain ⟨t, hfeed, ht⟩ := ih s.done hterr hp hm hrest
      exact ⟨t, feed_cons (execByte_of_otherFrame hterr hb hp hm) rfl hfeed, ht⟩
  case leaves =>
    rcases exec_cases h with ⟨b, rfl⟩ | ⟨-, rfl⟩ | ⟨hi, -⟩ | ⟨-, r, rfl⟩
    · exact .inl (congrArg _ (eq_sentinel_of_leaves_gotCkb hp hm h ht))
    · exact absurd hp ht
    · exact .inr hi
    · exact absurd hp ht

end Sys2Proof.Machine
end

section
/-! SUPPORT. A whole frame, part by part: header, payload, checksum bytes (40_frame_parser.md R123). -/

namespace Sys2Proof.Machine

/-- A sentinel and a LEN byte, from any parser state (R112, R113). -/
theorem feed_len {s : State} (hterr : s.terr = false) {len : Byte} (hlen : len ≠ Config.sentinel) :
    feed [Config.sentinel, len] s =
      .next ({ s with pstate := .gotLen, declLen := len, payloadCount := 0, rsp := some okRsp }, [okRsp, okRsp]) :=
  feed_cons (execByte_of_sentinel hterr) rfl <|
    feed_cons (execByte_of_parse hterr hlen (State.parse_gotStx len rfl)) rfl <| feed_nil _

/-- A sentinel and the header up to the message identifier, from any parser state (R112-R115). -/
theorem feed_header {s : State} (hterr : s.terr = false) {len seq sys comp msgid : Byte}
    (hno : ∀ b ∈ [len, seq, sys, comp, msgid], b ≠ Config.sentinel) :
    feed [Config.sentinel, len, seq, sys, comp, msgid] s =
      .next ({ s with
        pstate := afterMsgId len
        declLen := len
        msgId := msgid
        payloadCount := 0
        rsp := some okRsp }, List.replicate 6 okRsp) := by
  simp only [List.forall_mem_cons] at hno
  obtain ⟨hlen, hseq, hsys, hcomp, hmsgid, -⟩ := hno
  refine feed_append (feed_len hterr hlen) ?_
  exact feed_cons (execByte_of_parse hterr hseq (State.parse_gotLen seq rfl)) rfl <|
    feed_cons (execByte_of_parse hterr hsys (State.parse_gotSeq sys rfl)) rfl <|
    feed_cons (execByte_of_parse hterr hcomp (State.parse_gotSys comp rfl)) rfl <|
    feed_cons (execByte_of_gotComp hterr hmsgid rfl) rfl <| feed_nil _

/-- The rest of a payload: its bytes stand from index PAYLOAD_COUNT on, those before stay, and GOT_CKA awaits the
checksum (R116). -/
theorem feed_payload {bs : List Byte} {s : State} (hterr : s.terr = false) (hm : s.payload.wf)
    (hno : ∀ b ∈ bs, b ≠ Config.sentinel)
    (hp : s.pstate = if s.payloadCount = s.declLen then .gotCka else .inPayload)
    (hlen : s.payloadCount.toNat + bs.length = s.declLen.toNat) :
    ∃ t, feed bs s = .next (t, List.replicate bs.length okRsp) ∧
      t = { s with payload := t.payload, payloadCount := s.declLen, pstate := .gotCka, rsp := t.rsp } ∧
      (∀ a < s.payloadCount.toNat, t.payload.read a = s.payload.read a) ∧
      ∀ k (h : k < bs.length), t.payload.read (s.payloadCount.toNat + k) = bs[k] := by
  induction bs generalizing s with
  | nil =>
    have hc : s.payloadCount = s.declLen := BitVec.eq_of_toNat_eq hlen
    rw [if_pos hc] at hp
    refine ⟨s, feed_nil s, ?_, fun _ _ => rfl, nofun⟩
    cases s
    cases hc
    cases hp
    rfl
  | cons b bs ih =>
    obtain ⟨hb, hrest⟩ := List.forall_mem_cons.mp hno
    rw [List.length_cons] at hlen
    have hlt := s.declLen.isLt
    have hcap : s.payloadCount.toNat < Config.payloadCap := by simp only [Config.payloadCap]; omega
    rw [if_neg (by rintro hc; rw [hc] at hlen; omega)] at hp
    have hcount := s.storePayloadByte_count b hcap
    have hread := s.storePayloadByte_read b hm
    obtain ⟨t, hfeed, ht, hbefore, hbytes⟩ := ih (s := s.storePayloadByte b) hterr (Memory.write_wf hm hcap b) hrest rfl
      (show _ = s.declLen.toNat by omega)
    refine ⟨t, feed_cons (execByte_of_parse hterr hb (State.parse_inPayload_of_lt b hp hcap)) rfl hfeed, ht,
      fun a ha => ?before, fun k hk => ?bytes⟩
    case before => rw [hbefore a (by omega), hread, if_neg (by omega)]
    case bytes =>
      cases k with
      | zero => exact (hbefore _ (by omega)).trans ((hread _).trans (if_pos rfl))
      | succ k =>
        have := hbytes k (by simpa using hk)
        rwa [hcount, Nat.add_assoc, Nat.add_comm 1 k] at this

/-- A frame up to its payload's last byte leaves GOT_CKA with LEN, MSGID and the payload. -/
theorem feed_headerAndPayload {s : State} (hterr : s.terr = false) (hm : s.payload.wf) {len seq sys comp msgid : Byte}
    {payload : List Byte} (hhdr : ∀ b ∈ [len, seq, sys, comp, msgid], b ≠ Config.sentinel)
    (hno : ∀ b ∈ payload, b ≠ Config.sentinel) (hlen : len.toNat = payload.length) :
    ∃ t, feed ([Config.sentinel, len, seq, sys, comp, msgid] ++ payload) s =
        .next (t, List.replicate (payload.length + 6) okRsp) ∧
      t = { s with
        pstate := .gotCka
        declLen := len
        msgId := msgid
        payloadCount := len
        payload := t.payload
        rsp := t.rsp } ∧
      ∀ k (h : k < payload.length), t.payload.read k = payload[k] := by
  have header := feed_header hterr hhdr
  have hp : afterMsgId len = if 0 = len then .gotCka else .inPayload := by simp only [afterMsgId, eq_comm]
  obtain ⟨t, hfeed, ht, -, hbytes⟩ := feed_payload (bs := payload) (s := { s with
    pstate := afterMsgId len, declLen := len, msgId := msgid, payloadCount := 0, rsp := some okRsp }) hterr hm hno hp
    (by simp [hlen])
  refine ⟨t, ?responses, ht, fun k hk => ?byte⟩
  case responses =>
    rw [feed_append header hfeed, List.replicate_append_replicate, Nat.add_comm]
  case byte => simpa using hbytes k hk

/-- Accept's response code by the length of the payload (R172, R173). -/
theorem State.accept_code (s : State) : s.accept.2 = if 26 ≤ s.payloadCount.toNat then .ok else .decodeErr := by
  split
  case isTrue hc => rw [State.accept_of_long s hc]
  case isFalse hc => rw [State.accept_of_short s (by omega)]

/-- The two checksum bytes of a target frame: the event is on the second (R118, R119). -/
theorem feed_checksum_of_target {s : State} (hterr : s.terr = false) (hp : s.pstate = .gotCka)
    (hm : s.msgId = Config.targetId) {cka ckb : Byte} (hcka : cka ≠ Config.sentinel) (hckb : ckb ≠ Config.sentinel) :
    ∃ t, feed [cka, ckb] s =
        .next (t, [okRsp, ⟨if 26 ≤ s.payloadCount.toNat then .ok else .decodeErr, 0, true⟩]) ∧
      t.pstate = .idle ∧ t.declLen = s.declLen ∧ t.msgId = s.msgId ∧ t.payloadCount = s.payloadCount ∧
      t.payload = s.payload := by
  have last := execByte_of_completesFrame (s := (s.setPstate .gotCkb).done) (b := ckb) ⟨hterr, hckb, rfl, hm⟩
  rw [State.accept_code] at last
  refine ⟨_, feed_cons (execByte_of_parse hterr hcka (State.parse_gotCka cka hp)) rfl <|
    feed_cons last rfl <| feed_nil _, ?_⟩
  simp

/-- The two checksum bytes of any other frame: no event, and GOT_CKB stays (R117, R119). -/
theorem feed_checksum_of_other {s : State} (hterr : s.terr = false) (hp : s.pstate = .gotCka)
    (hm : s.msgId ≠ Config.targetId) {cka ckb : Byte} (hcka : cka ≠ Config.sentinel) (hckb : ckb ≠ Config.sentinel) :
    feed [cka, ckb] s = .next ((s.setPstate .gotCkb).done, [okRsp, okRsp]) :=
  feed_cons (execByte_of_parse hterr hcka (State.parse_gotCka cka hp)) rfl <|
    feed_cons (execByte_of_otherFrame hterr hckb rfl hm) rfl <| feed_nil _

/-- Settles O50: header and payload leave GOT_CKA, whatever the frame; the checksum bytes then complete a target frame
and drop any other. -/
theorem wholeFrameTakesItsLengthPlusEightBytes : Obligations.WholeFrameTakesItsLengthPlusEightBytes := by
  intro s seq sys comp msgid payload cka ckb hterr hm hlen hno
  have hno : ∀ b ∈ [BitVec.ofNat 8 payload.length, seq, sys, comp, msgid] ++ payload ++ [cka, ckb],
      b ≠ Config.sentinel := hno
  simp only [List.forall_mem_append] at hno
  obtain ⟨⟨hhdr, hpayload⟩, hck⟩ := hno
  obtain ⟨hcka, hckb⟩ : cka ≠ Config.sentinel ∧ ckb ≠ Config.sentinel := by simpa using hck
  have hL : (BitVec.ofNat 8 payload.length).toNat = payload.length := by
    rw [BitVec.toNat_ofNat, Nat.mod_eq_of_lt (by omega)]
  obtain ⟨u, hfront, hu, hbytes⟩ := feed_headerAndPayload hterr hm hhdr hpayload hL
  have huterr : u.terr = false := by rw [hu]; exact hterr
  have hup : u.pstate = .gotCka := by rw [hu]
  have hum : u.msgId = msgid := by rw [hu]
  have huc : u.payloadCount.toNat = payload.length := by rw [hu]; exact hL
  have hud : u.declLen.toNat = payload.length := by rw [hu]; exact hL
  by_cases ht : msgid = Config.targetId
  case pos =>
    obtain ⟨t, hend, htp, htd, htm, htc, htb⟩ := feed_checksum_of_target huterr hup (hum.trans ht) hcka hckb
    rw [huc] at hend
    refine ⟨t, _, feed_append hfront hend, by simp, htc ▸ huc, htd ▸ hud, htm.trans hum, htb ▸ hbytes,
      fun _ => ⟨htp, ?_⟩, fun hne => absurd ht hne⟩
    rw [List.replicate_succ' (n := payload.length + 6), List.append_assoc]
    rfl
  case neg =>
    refine ⟨_, _, feed_append hfront (feed_checksum_of_other huterr hup (hum ▸ ht) hcka hckb), by simp, huc, hud, hum,
      hbytes, fun h => absurd h ht, fun _ => ⟨rfl, ?_⟩⟩
    exact List.replicate_append_replicate (n := payload.length + 6) (m := 2)

end Sys2Proof.Machine
end

section
/-! SUPPORT. Two blocks fed the same bytes after a sentinel: their parsers stay in step, whatever the sentinel found,
and their drivers differ only as far as they differed before (40_frame_parser.md R125). -/

namespace Sys2Proof.Machine

/-! ### In step -/

/-- The transport is up, and the payload buffer is canonical. -/
def State.Ready (s : State) : Prop := s.terr = false ∧ s.payload.wf

/-- What two frames in parser state `p` have in common beside the payload so far: LEN once its byte came, MSGID once its
byte came; and in IN_PAYLOAD there is an index for the next byte (R112, R113, R115). -/
def State.FrameClause (s₁ s₂ : State) : PState → Prop
  | .gotStx => True
  | .gotLen | .gotSeq | .gotSys | .gotComp => s₁.declLen = s₂.declLen
  | .inPayload => s₁.declLen = s₂.declLen ∧ s₁.msgId = s₂.msgId ∧ s₁.payloadCount.toNat < s₁.declLen.toNat
  | .gotCka | .gotCkb | .idle => s₁.declLen = s₂.declLen ∧ s₁.msgId = s₂.msgId

/-- Two blocks whose parsers are in step, in parser state `p`. -/
structure State.InStep (p : PState) (s₁ s₂ : State) : Prop where
  pstate₁ : s₁.pstate = p
  pstate₂ : s₂.pstate = p
  ready₁ : s₁.Ready
  ready₂ : s₂.Ready
  count : s₁.payloadCount = s₂.payloadCount
  reads : ∀ a < s₁.payloadCount.toNat, s₁.payload.read a = s₂.payload.read a
  clause : s₁.FrameClause s₂ p

/-- Two outcomes that are next states in step, with one response. -/
def NextInStep (o₁ o₂ : Host.Outcome State Fault Refusal) : Prop :=
  ∃ t₁ t₂ r p, o₁ = .next t₁ ∧ o₂ = .next t₂ ∧ t₁.rsp = some r ∧ t₂.rsp = some r ∧ t₁.InStep p t₂

/-- A sentinel brings any two blocks in step (R112). -/
theorem State.Ready.restartFrame {s₁ s₂ : State} (h₁ : s₁.Ready) (h₂ : s₂.Ready) :
    s₁.restartFrame.done.InStep .gotStx s₂.restartFrame.done :=
  ⟨rfl, rfl, h₁, h₂, rfl, nofun, trivial⟩

section
variable {p : PState} {s₁ s₂ : State} (h : s₁.InStep p s₂)
include h

/-- Next states in step, with one response. -/
theorem State.InStep.next {r : Response} (hr₁ : s₁.rsp = some r) (hr₂ : s₂.rsp = some r) :
    NextInStep (.next s₁) (.next s₂) :=
  ⟨s₁, s₂, r, p, rfl, rfl, hr₁, hr₂, h⟩

/-- Both consume a byte and stay. -/
theorem State.InStep.done : s₁.done.InStep p s₂.done := by
  obtain ⟨hp₁, hp₂, h₁, h₂, hcount, hreads, hclause⟩ := h
  refine ⟨hp₁, hp₂, h₁, h₂, hcount, hreads, ?_⟩
  cases p <;> exact hclause

/-- Both parsers move to `q`, the payload so far staying as it is. -/
theorem State.InStep.advance {q : PState} (hc : s₁.FrameClause s₂ q) :
    (s₁.setPstate q).done.InStep q (s₂.setPstate q).done := by
  refine ⟨rfl, rfl, h.ready₁, h.ready₂, h.count, h.reads, ?_⟩
  cases q <;> exact hc

/-- Both take the same message identifier and start an empty payload (R115). -/
theorem State.InStep.takeMsgId (hc : s₁.declLen = s₂.declLen) (b : Byte) :
    (s₁.takeMsgId b).done.InStep (afterMsgId s₁.declLen) (s₂.takeMsgId b).done := by
  refine ⟨rfl, congrArg afterMsgId hc.symm, h.ready₁, h.ready₂, rfl, nofun, ?_⟩
  unfold afterMsgId
  split
  case isTrue hz => exact ⟨hc, rfl⟩
  case isFalse hz =>
    refine ⟨hc, rfl, ?_⟩
    change 0 < s₁.declLen.toNat
    bv_omega

/-- In IN_PAYLOAD both have an index for the next byte (R116). -/
theorem State.InStep.room (hp : p = .inPayload) : s₁.payloadCount.toNat < Config.payloadCap := by
  subst hp
  obtain ⟨-, -, hroom⟩ := h.clause
  have := s₁.declLen.isLt
  simp only [Config.payloadCap]
  omega

/-- Both store the same payload byte at the same index (R116). -/
theorem State.InStep.storePayloadByte (hp : p = .inPayload) (b : Byte) :
    (s₁.storePayloadByte b).InStep (if s₁.payloadCount + 1 = s₁.declLen then .gotCka else .inPayload)
      (s₂.storePayloadByte b) := by
  have hcap := h.room hp
  have hcap₂ : s₂.payloadCount.toNat < Config.payloadCap := h.count ▸ hcap
  have hcount := s₁.storePayloadByte_count b hcap
  subst hp
  obtain ⟨hdecl, hmsg, hroom⟩ := h.clause
  refine ⟨rfl, ?pstate, ⟨h.ready₁.1, Memory.write_wf h.ready₁.2 hcap b⟩,
    ⟨h.ready₂.1, Memory.write_wf h.ready₂.2 hcap₂ b⟩, congrArg (· + 1) h.count, fun a ha => ?reads, ?clause⟩
  case pstate => rw [hdecl, h.count]; rfl
  case reads =>
    rw [State.storePayloadByte_read b h.ready₁.2, State.storePayloadByte_read b h.ready₂.2, ← h.count]
    split
    · rfl
    · exact h.reads a (by omega)
  case clause =>
    split
    case isTrue hfull => exact ⟨hdecl, hmsg⟩
    case isFalse hmore =>
      have hne : (s₁.payloadCount + 1).toNat ≠ s₁.declLen.toNat := fun hn => hmore (BitVec.eq_of_toNat_eq hn)
      refine ⟨hdecl, hmsg, ?_⟩
      change (s₁.payloadCount + 1).toNat < s₁.declLen.toNat
      bv_omega

/-- Both decode the same schema fields, or neither does (41_field_decoder.md R149). -/
theorem State.InStep.decodeSchema : s₁.decodeSchema = s₂.decodeSchema := by
  rw [State.decodeSchema_eq, State.decodeSchema_eq, ← h.count]
  by_cases hc : 26 ≤ s₁.payloadCount.toNat
  case neg => rw [if_neg hc, if_neg hc]
  case pos =>
    have same (a n : Nat) (ha : a + n ≤ 26) : s₁.payload.readLE a n = s₂.payload.readLE a n :=
      Memory.readLE_congr fun k hk => h.reads _ (by omega)
    rw [if_pos hc, if_pos hc, same 0 8 (by decide), same 8 8 (by decide), same 16 4 (by decide), same 20 4 (by decide),
      same 25 1 (by decide)]

/-- Both accept the frame with the same response, or both drop it (R117, R118). -/
theorem State.InStep.takeCkb (hp : p = .gotCkb) : NextInStep (.next s₁.takeCkb) (.next s₂.takeCkb) := by
  subst hp
  obtain ⟨hdecl, hmsg⟩ := h.clause
  by_cases hm : s₁.msgId = Config.targetId
  case pos =>
    have hcode : (s₁.setPstate .idle).accept.2 = (s₂.setPstate .idle).accept.2 := by
      rw [State.accept_code, State.accept_code, State.setPstate_payloadCount, State.setPstate_payloadCount, h.count]
    rw [State.takeCkb_of_target hm, State.takeCkb_of_target (hmsg ▸ hm), hcode]
    refine State.InStep.next (p := .idle) ?_ rfl rfl
    constructor
    case reads => simpa using h.reads
    case ready₁ => simpa [State.Ready] using h.ready₁
    case ready₂ => simpa [State.Ready] using h.ready₂
    case clause => simpa [State.FrameClause] using h.clause
    all_goals simp [h.count]
  case neg =>
    rw [State.takeCkb_of_other hm, State.takeCkb_of_other (hmsg ▸ hm)]
    exact h.done.next rfl rfl

/-- A non-sentinel byte, by the parser state both are in (R113-R121). -/
theorem State.InStep.parse (b : Byte) : NextInStep (s₁.parse b) (s₂.parse b) := by
  have hp₁ := h.pstate₁
  have hp₂ := h.pstate₂
  have hc := h.clause
  cases p
  case idle =>
    rw [State.parse_idle b hp₁, State.parse_idle b hp₂]
    exact h.done.next rfl rfl
  case gotStx =>
    rw [State.parse_gotStx b hp₁, State.parse_gotStx b hp₂]
    exact State.InStep.next (p := .gotLen) ⟨rfl, rfl, h.ready₁, h.ready₂, h.count, h.reads, rfl⟩ rfl rfl
  case gotLen =>
    rw [State.parse_gotLen b hp₁, State.parse_gotLen b hp₂]
    exact (h.advance (q := .gotSeq) hc).next rfl rfl
  case gotSeq =>
    rw [State.parse_gotSeq b hp₁, State.parse_gotSeq b hp₂]
    exact (h.advance (q := .gotSys) hc).next rfl rfl
  case gotSys =>
    rw [State.parse_gotSys b hp₁, State.parse_gotSys b hp₂]
    exact (h.advance (q := .gotComp) hc).next rfl rfl
  case gotComp =>
    rw [State.parse_gotComp b hp₁, State.parse_gotComp b hp₂]
    exact (h.takeMsgId hc b).next rfl rfl
  case inPayload =>
    rw [State.parse_inPayload_of_lt b hp₁ (h.room rfl), State.parse_inPayload_of_lt b hp₂ (h.count ▸ h.room rfl)]
    exact (h.storePayloadByte rfl b).next rfl rfl
  case gotCka =>
    rw [State.parse_gotCka b hp₁, State.parse_gotCka b hp₂]
    exact (h.advance (q := .gotCkb) hc).next rfl rfl
  case gotCkb =>
    rw [State.parse_gotCkb b hp₁, State.parse_gotCkb b hp₂]
    exact h.takeCkb rfl

/-- Every byte (R110). -/
theorem State.InStep.execByte (b : Byte) : NextInStep (execByte b s₁) (execByte b s₂) := by
  by_cases hb : b = Config.sentinel
  case pos =>
    subst hb
    rw [execByte_of_sentinel h.ready₁.1, execByte_of_sentinel h.ready₂.1]
    exact (h.ready₁.restartFrame h.ready₂).next rfl rfl
  case neg =>
    rw [execByte_of_ne h.ready₁.1 hb, execByte_of_ne h.ready₂.1 hb]
    exact h.parse b

end

/-! ### What the two agree on -/

/-- A function of the state on which two blocks in step agree after a byte if they agreed before it. -/
def Carried {α : Type} (f : State → α) : Prop :=
  ∀ ⦃p : PState⦄ ⦃s₁ s₂ t₁ t₂ : State⦄ ⦃b : Byte⦄, s₁.InStep p s₂ →
    execByte b s₁ = .next t₁ → execByte b s₂ = .next t₂ → f s₁ = f s₂ → f t₁ = f t₂

/-- DECL_LEN and MSG_ID after a byte (R113, R115). -/
theorem execByte_declLen_msgId {b : Byte} {s t : State} (hterr : s.terr = false) (h : execByte b s = .next t) :
    t.declLen = (if b ≠ Config.sentinel ∧ s.pstate = .gotStx then b else s.declLen) ∧
    t.msgId = (if b ≠ Config.sentinel ∧ s.pstate = .gotComp then b else s.msgId) := by
  rcases execByte_cases h with ⟨hdown, -⟩ | ⟨-, hb, rfl⟩ | ⟨-, hb, branch⟩
  · exact absurd hterr (by simp [hdown])
  · simp [hb, State.restartFrame]
  · rcases branch with ⟨hp, rfl⟩ | ⟨hp, rfl⟩ | ⟨hp, rfl⟩ | ⟨hp, rfl⟩ | ⟨hp, rfl⟩ | ⟨hp, rfl⟩ | ⟨hp, -, rfl⟩ |
      ⟨hp, rfl⟩ | ⟨hp, -, rfl⟩ | ⟨hp, -, rfl⟩ <;> simp [hb, hp, State.takeMsgId]

theorem carried_declLen : Carried State.declLen := by
  intro p s₁ s₂ t₁ t₂ b h h₁ h₂ hf
  rw [(execByte_declLen_msgId h.ready₁.1 h₁).1, (execByte_declLen_msgId h.ready₂.1 h₂).1, h.pstate₁, h.pstate₂, hf]

theorem carried_msgId : Carried State.msgId := by
  intro p s₁ s₂ t₁ t₂ b h h₁ h₂ hf
  rw [(execByte_declLen_msgId h.ready₁.1 h₁).2, (execByte_declLen_msgId h.ready₂.1 h₂).2, h.pstate₁, h.pstate₂, hf]

/-- `s` with the parser's elements and the response of `u` (10_state.md R53). -/
def State.withParser (s u : State) : State :=
  { s with
    pstate := u.pstate
    declLen := u.declLen
    msgId := u.msgId
    payloadCount := u.payloadCount
    payload := u.payload
    rsp := u.rsp }

/-- A BYTE that completes no accepted frame changes the parser's elements and the response alone (10_state.md R53). -/
theorem eq_withParser_of_not_completesFrame {b : Byte} {s t : State} (h : execByte b s = .next t)
    (hn : ¬ s.completesFrame b) : t = s.withParser t :=
  execByte_of_not_completesFrame h hn

/-- Accept with no decoded fields (R171, R172). -/
def State.acceptShort (s : State) : State := s.countSample.setDerr true

/-- Accept with the five decoded fields (R171, R173). -/
def State.acceptFields (s : State) (time flow dist raw qual : Data) : State :=
  ((s.countSample.setDerr false).setReading time flow dist raw qual).integrate time

theorem State.accept_of_no_fields {s : State} (h : s.decodeSchema = none) : s.accept.1 = s.acceptShort := by
  simp only [State.accept, h, State.acceptShort]

theorem State.accept_of_fields {s : State} {time flow dist raw qual : Data}
    (h : s.decodeSchema = some (time, flow, dist, raw, qual)) :
    s.accept.1 = s.acceptFields time flow dist raw qual := by
  simp only [State.accept, h, State.acceptFields]

/-- The two complete an accepted frame together. -/
theorem State.InStep.completesFrame_iff {p : PState} {s₁ s₂ : State} (h : s₁.InStep p s₂) (b : Byte) :
    s₁.completesFrame b ↔ s₂.completesFrame b := by
  unfold State.completesFrame
  rw [h.ready₁.1, h.ready₂.1, h.pstate₁, h.pstate₂]
  refine and_congr_right fun _ => and_congr_right fun _ => and_congr_right fun hp => ?_
  subst hp
  rw [h.clause.2]

section
variable {α : Type} {f : State → α} (hkeep : ∀ s u : State, f (s.withParser u) = f s)
  (hshort : ∀ ⦃s₁ s₂ : State⦄, f s₁ = f s₂ → f s₁.acceptShort = f s₂.acceptShort)
  (hfields : ∀ ⦃s₁ s₂ : State⦄ (time flow dist raw qual : Data), f s₁ = f s₂ →
    f (s₁.acceptFields time flow dist raw qual) = f (s₂.acceptFields time flow dist raw qual))
include hshort hfields

/-- Accept of the same decoded fields, or of none. -/
theorem accept_carries {s₁ s₂ : State} (hd : s₁.decodeSchema = s₂.decodeSchema) (hf : f s₁ = f s₂) :
    f s₁.accept.1 = f s₂.accept.1 := by
  cases h₂ : s₂.decodeSchema with
  | none =>
    rw [State.accept_of_no_fields (hd.trans h₂), State.accept_of_no_fields h₂]
    exact hshort hf
  | some fields =>
    obtain ⟨time, flow, dist, raw, qual⟩ := fields
    rw [State.accept_of_fields (hd.trans h₂), State.accept_of_fields h₂]
    exact hfields time flow dist raw qual hf

include hkeep

/-- What the parser does not write is carried if Accept of the same decoded fields, or of none, carries it. -/
theorem carried_of_driver : Carried f := by
  intro p s₁ s₂ t₁ t₂ b h h₁ h₂ hf
  by_cases hc : s₁.completesFrame b
  case neg =>
    have hc₂ := mt (h.completesFrame_iff b).mpr hc
    rw [eq_withParser_of_not_completesFrame h₁ hc, eq_withParser_of_not_completesFrame h₂ hc₂, hkeep, hkeep, hf]
  case pos =>
    have idle (s : State) : f (s.setPstate .idle) = f s := hkeep s (s.setPstate .idle)
    have respond (s : State) (code : RspCode) : f (s.respond code 0 true) = f s := hkeep s (s.respond code 0 true)
    rw [eq_of_completesFrame hc h₁, eq_of_completesFrame ((h.completesFrame_iff b).mp hc) h₂, respond, respond]
    refine accept_carries hshort hfields h.decodeSchema ?_
    rw [idle, idle, hf]

end

theorem carried_reading : Carried State.reading :=
  carried_of_driver (fun _ _ => rfl) (fun _ _ hf => hf)
    fun _ _ _ _ _ _ _ _ => by simp [State.acceptFields, State.reading]

theorem carried_sampleCount : Carried State.sampleCount :=
  carried_of_driver (fun _ _ => rfl) (fun _ _ hf => congrArg saturatingSucc hf)
    fun _ _ _ _ _ _ _ hf => by simp [State.acceptFields, State.countSample, hf]

theorem carried_derr : Carried State.derr :=
  carried_of_driver (fun _ _ => rfl) (fun _ _ _ => rfl)
    fun _ _ _ _ _ _ _ _ => by simp [State.acceptFields]

theorem carried_prev : Carried State.prev :=
  carried_of_driver (fun _ _ => rfl) (fun _ _ hf => hf)
    fun _ _ _ _ _ _ _ _ => by simp [State.acceptFields, State.prev]

/-- What an accumulator's next value is computed from beside the frame: itself, the previous time and GAP_US
(R175-R177). -/
def State.accBasis (acc : State → BitVec 64) (s : State) : (Bool × BitVec 64) × BitVec 32 × BitVec 64 :=
  (s.prev, s.gapUs, acc s)

theorem State.accBasis_eq_iff (acc : State → BitVec 64) (s₁ s₂ : State) :
    s₁.accBasis acc = s₂.accBasis acc ↔ s₁.prev = s₂.prev ∧ s₁.gapUs = s₂.gapUs ∧ acc s₁ = acc s₂ := by
  simp only [State.accBasis, Prod.mk.injEq]

/-- Either accumulator, its flow being one lane of the decoded flow word (R177). -/
theorem carried_accBasis {acc : State → BitVec 64} {lane : Data → BitVec 32}
    (hkeep : ∀ s u : State, acc (s.withParser u) = acc s) (hshort : ∀ s : State, acc s.acceptShort = acc s)
    (hfields : ∀ (s : State) (time flow dist raw qual : Data), acc (s.acceptFields time flow dist raw qual) =
      if s.prevValid = true ∧ intervalUs time s.prevTimeUs < (s.gapUs.toNat : Int) then
        accumulated (acc s) (lane flow) (intervalUs time s.prevTimeUs) else acc s) :
    Carried (State.accBasis acc) := by
  refine carried_of_driver (fun s u => ?keep) (fun s₁ s₂ hf => ?short) fun s₁ s₂ time flow dist raw qual hf => ?fields
  case keep => exact (State.accBasis_eq_iff acc _ _).mpr ⟨rfl, rfl, hkeep s u⟩
  case short =>
    obtain ⟨hp, hg, ha⟩ := (State.accBasis_eq_iff acc s₁ s₂).mp hf
    exact (State.accBasis_eq_iff acc _ _).mpr ⟨hp, hg, by rw [hshort, hshort, ha]⟩
  case fields =>
    obtain ⟨hp, hg, ha⟩ := (State.accBasis_eq_iff acc s₁ s₂).mp hf
    obtain ⟨hv, ht⟩ := Prod.mk.inj hp
    refine (State.accBasis_eq_iff acc _ _).mpr ⟨?_, ?_, ?_⟩
    · simp [State.acceptFields, State.prev]
    · simpa [State.acceptFields, State.countSample] using hg
    · rw [hfields, hfields, hv, ht, hg, ha]

theorem carried_accX : Carried (State.accBasis State.accX) :=
  carried_accBasis (lane := (·.extractLsb' 0 32)) (fun _ _ => rfl) (fun _ => rfl)
    fun _ _ _ _ _ _ => State.integrate_accX _ _

theorem carried_accY : Carried (State.accBasis State.accY) :=
  carried_accBasis (lane := (·.extractLsb' 32 32)) (fun _ _ => rfl) (fun _ => rfl)
    fun _ _ _ _ _ _ => State.integrate_accY _ _

/-! ### Runs side by side -/

/-- What blocks `s₁` and `s₂` agree on, `t₁` and `t₂` agree on. -/
def Carries (s₁ s₂ t₁ t₂ : State) : Prop :=
  ∀ ⦃α : Type⦄ ⦃f : State → α⦄, Carried f → f s₁ = f s₂ → f t₁ = f t₂

/-- Two blocks in step, fed the same bytes, answer the same and stay in step. -/
theorem State.InStep.feed (bs : List Byte) {p : PState} {s₁ s₂ : State} (h : s₁.InStep p s₂) :
    ∃ t₁ t₂ rs q, feed bs s₁ = .next (t₁, rs) ∧ feed bs s₂ = .next (t₂, rs) ∧ t₁.InStep q t₂ ∧ Carries s₁ s₂ t₁ t₂ := by
  induction bs generalizing p s₁ s₂ with
  | nil => exact ⟨s₁, s₂, [], p, feed_nil s₁, feed_nil s₂, h, fun _ _ _ hf => hf⟩
  | cons b bs ih =>
    obtain ⟨u₁, u₂, r, q, h₁, h₂, hr₁, hr₂, hu⟩ := h.execByte b
    obtain ⟨t₁, t₂, rs, q', hf₁, hf₂, ht, hcarry⟩ := ih hu
    exact ⟨t₁, t₂, r :: rs, q', feed_cons h₁ hr₁ hf₁, feed_cons h₂ hr₂ hf₂, ht,
      fun _ _ hC hf => hcarry hC (hC h h₁ h₂ hf)⟩

section
variable {s₁ s₂ : State} (h₁ : s₁.Ready) (h₂ : s₂.Ready)
include h₁ h₂

/-- Any two blocks, fed a sentinel and the same bytes, answer the same and end in step. -/
theorem feed_sentinel (w : List Byte) :
    ∃ t₁ t₂ rs q, feed (Config.sentinel :: w) s₁ = .next (t₁, rs) ∧ feed (Config.sentinel :: w) s₂ = .next (t₂, rs) ∧
      t₁.InStep q t₂ ∧ Carries s₁.restartFrame.done s₂.restartFrame.done t₁ t₂ := by
  obtain ⟨t₁, t₂, rs, q, hf₁, hf₂, ht, hcarry⟩ := (h₁.restartFrame h₂).feed w
  exact ⟨t₁, t₂, okRsp :: rs, q, feed_cons (execByte_of_sentinel h₁.1) rfl hf₁,
    feed_cons (execByte_of_sentinel h₂.1) rfl hf₂, ht, hcarry⟩

/-- Up to any later sentinel both blocks run alike, and are ready for it. -/
theorem feed_up_to_sentinel {pre post w : List Byte} (hw : pre ++ Config.sentinel :: post = Config.sentinel :: w) :
    ∃ u₁ u₂ qs, feed pre s₁ = .next (u₁, qs) ∧ feed pre s₂ = .next (u₂, qs) ∧ u₁.Ready ∧ u₂.Ready := by
  cases pre with
  | nil => exact ⟨s₁, s₂, [], feed_nil s₁, feed_nil s₂, h₁, h₂⟩
  | cons b pre =>
    obtain rfl : b = Config.sentinel := (List.cons.inj hw).1
    obtain ⟨u₁, u₂, qs, q, hf₁, hf₂, hu, -⟩ := feed_sentinel h₁ h₂ pre
    exact ⟨u₁, u₂, qs, hf₁, hf₂, hu.ready₁, hu.ready₂⟩

/-- An element that some bytes after a sentinel set to one value, whatever the block, agrees once they came. -/
theorem agree_once_received {f : State → Byte} (hC : Carried f) {x : Byte} {hdr w : List Byte}
    (hset : ∀ (u v : State) (rs : List Response), u.terr = false →
      feed (Config.sentinel :: hdr) u = .next (v, rs) → f v = x)
    (hin : Config.sentinel :: hdr <:+: Config.sentinel :: w) {t₁ t₂ : State} {rs₁ rs₂ : List Response}
    (hr₁ : feed (Config.sentinel :: w) s₁ = .next (t₁, rs₁)) (hr₂ : feed (Config.sentinel :: w) s₂ = .next (t₂, rs₂)) :
    f t₁ = f t₂ := by
  obtain ⟨pre, post, hw⟩ := hin
  obtain ⟨u₁, u₂, _, hpre₁, hpre₂, hu₁, hu₂⟩ := feed_up_to_sentinel h₁ h₂ ((List.append_assoc _ _ _).symm.trans hw)
  obtain ⟨v₁, v₂, _, _, hhdr₁, hhdr₂, hv, -⟩ := feed_sentinel hu₁ hu₂ hdr
  obtain ⟨x₁, x₂, _, _, hpost₁, hpost₂, -, hcarry⟩ := hv.feed post
  have agree : f v₁ = f v₂ := (hset u₁ v₁ _ hu₁.1 hhdr₁).trans (hset u₂ v₂ _ hu₂.1 hhdr₂).symm
  have run₁ := feed_append (feed_append hpre₁ hhdr₁) hpost₁
  have run₂ := feed_append (feed_append hpre₂ hhdr₂) hpost₂
  rw [hw] at run₁ run₂
  obtain ⟨rfl, -⟩ := Prod.mk.inj (Host.Outcome.next.inj (run₁.symm.trans hr₁))
  obtain ⟨rfl, -⟩ := Prod.mk.inj (Host.Outcome.next.inj (run₂.symm.trans hr₂))
  exact hcarry hC agree

end

/-- Settles O51: the sentinel brings the two parsers in step, and each later byte keeps them so and carries what the two
agree on. -/
theorem sentinelResynchronises : Obligations.SentinelResynchronises := by
  intro s₁ s₂ w hterr₁ hterr₂ hm₁ hm₂
  have h₁ : s₁.Ready := ⟨hterr₁, hm₁⟩
  have h₂ : s₂.Ready := ⟨hterr₂, hm₂⟩
  obtain ⟨t₁, t₂, rs, q, hr₁, hr₂, hstep, hcarry⟩ := feed_sentinel h₁ h₂ w
  refine ⟨t₁, t₂, rs, hr₁, hr₂, hstep.pstate₁.trans hstep.pstate₂.symm, hstep.count, hstep.reads, ?declLen, ?msgId,
    hcarry carried_reading, hcarry carried_sampleCount, hcarry carried_derr, hcarry carried_prev,
    fun hp hg ha => ?accX, fun hp hg ha => ?accY⟩
  case declLen =>
    rintro ⟨len, hlen, hin⟩
    refine agree_once_received h₁ h₂ carried_declLen (x := len) (fun u v _ hterr hv => ?_) hin hr₁ hr₂
    cases (feed_len hterr hlen).symm.trans hv
    rfl
  case msgId =>
    rintro ⟨len, seq, sys, comp, mid, hno, hin⟩
    have hno : ∀ b ∈ [len, seq, sys, comp, mid], b ≠ Config.sentinel := by
      rintro _ hb rfl
      exact hno hb
    refine agree_once_received h₁ h₂ carried_msgId (x := mid) (fun u v _ hterr hv => ?_) hin hr₁ hr₂
    cases (feed_header hterr hno).symm.trans hv
    rfl
  case accX =>
    have basis := hcarry carried_accX ((State.accBasis_eq_iff State.accX s₁ s₂).mpr ⟨hp, hg, ha⟩)
    exact ((State.accBasis_eq_iff State.accX t₁ t₂).mp basis).2.2
  case accY =>
    have basis := hcarry carried_accY ((State.accBasis_eq_iff State.accY s₁ s₂).mpr ⟨hp, hg, ha⟩)
    exact ((State.accBasis_eq_iff State.accY t₁ t₂).mp basis).2.2

end Sys2Proof.Machine
end

section
/-! SUPPORT. Field values laid out little-endian and read back: what a buffer that holds a list of bytes reads as, and
the reading Accept latches from a buffer that holds the schema's payload (41_field_decoder.md R147, R150). -/

namespace Sys2Proof.Machine

/-! ### Buffers that hold a list of bytes -/

/-- The buffer holds these bytes from address `a` on. -/
def Memory.Holds (m : Memory) (a : Nat) (bs : List Byte) : Prop := ∀ k (h : k < bs.length), m.read (a + k) = bs[k]

theorem Memory.holds_cons {m : Memory} {a : Nat} {b : Byte} {bs : List Byte} :
    m.Holds a (b :: bs) ↔ m.read a = b ∧ m.Holds (a + 1) bs := by
  constructor
  case mp =>
    intro h
    refine ⟨h 0 (Nat.zero_lt_succ _), fun k hk => ?_⟩
    rw [Nat.add_assoc, Nat.add_comm 1 k]
    exact h (k + 1) (Nat.succ_lt_succ hk)
  case mpr =>
    rintro ⟨hb, hbs⟩ k hk
    cases k with
    | zero => exact hb
    | succ k => simpa [Nat.add_assoc, Nat.add_comm 1 k] using hbs k (Nat.lt_of_succ_lt_succ hk)

theorem Memory.holds_append {m : Memory} {a : Nat} {as bs : List Byte} :
    m.Holds a (as ++ bs) ↔ m.Holds a as ∧ m.Holds (a + as.length) bs := by
  induction as generalizing a with
  | nil => exact ⟨fun h => ⟨nofun, h⟩, fun h => h.2⟩
  | cons b as ih =>
    rw [List.cons_append, holds_cons, holds_cons, ih, and_assoc, List.length_cons, Nat.add_assoc, Nat.add_comm 1]

@[simp] theorem length_leBytes (n v : Nat) : (leBytes n v).length = n := by
  induction n generalizing v with
  | zero => rfl
  | succ n ih => rw [leBytes, List.length_cons, ih]

/-- The little-endian read undoes the little-endian layout (20_memory.md R63). -/
theorem Memory.readLE_of_holds_leBytes {m : Memory} {a n v : Nat} (h : m.Holds a (leBytes n v)) :
    m.readLE a n = v % 2 ^ (8 * n) := by
  induction n generalizing a v with
  | zero => rw [readLE, Nat.mul_zero, Nat.pow_zero, Nat.mod_one]
  | succ n ih =>
    obtain ⟨hlow, hhigh⟩ := holds_cons.mp h
    rw [readLE, hlow, ih hhigh, BitVec.toNat_ofNat, Nat.mul_succ, Nat.add_comm (8 * n), Nat.pow_add, Nat.mod_mul]

/-- A pattern laid out as its little-endian bytes is read back bit for bit. -/
theorem Memory.ofNat_readLE_of_holds {m : Memory} {a n : Nat} {x : BitVec (8 * n)}
    (h : m.Holds a (leBytes n x.toNat)) : BitVec.ofNat (8 * n) (m.readLE a n) = x := by
  rw [readLE_of_holds_leBytes h, Nat.mod_eq_of_lt x.isLt, BitVec.ofNat_toNat, BitVec.setWidth_eq]

/-! ### The reading of a payload -/

/-- The reading that the schema R147 finds in a payload buffer, little-endian at its offsets. -/
def Memory.schemaReading (m : Memory) :
    Bool × BitVec 64 × BitVec 32 × BitVec 32 × BitVec 32 × BitVec 16 × BitVec 16 × Byte :=
  (true, BitVec.ofNat 64 (m.readLE 0 8), BitVec.ofNat 32 (m.readLE 8 4), BitVec.ofNat 32 (m.readLE 12 4),
    BitVec.ofNat 32 (m.readLE 16 4), BitVec.ofNat 16 (m.readLE 20 2), BitVec.ofNat 16 (m.readLE 22 2), m.read 25)

/-- Accept of a payload that decodes latches its reading (42_driver_integrator.md R173): each lane is cut from the word
of its field. -/
theorem State.accept_reading (s : State) (h : 26 ≤ s.payloadCount.toNat) :
    s.accept.1.reading = s.payload.schemaReading := by
  have flowX := s.payload.readLE_low 8 4 4 (by decide)
  have flowY := s.payload.readLE_high 8 4 4 (by decide)
  have dist := s.payload.readLE_low 16 4 0 (by decide)
  have rawX := s.payload.readLE_low 20 2 2 (by decide)
  have rawY := s.payload.readLE_high 20 2 2 (by decide)
  have qual := s.payload.readLE_low 25 1 0 (by decide)
  rw [State.accept_of_long s h]
  simp only [State.reading, Memory.schemaReading, State.integrate_valid, State.integrate_timeUs,
    State.integrate_flowCompX, State.integrate_flowCompY, State.integrate_groundDistance, State.integrate_rawFlowX,
    State.integrate_rawFlowY, State.integrate_quality, State.setReading, Prod.mk.injEq, true_and]
  refine ⟨flowX, flowY, dist, rawX, rawY, qual.trans ?_⟩
  simp [Memory.readLE]

/-- The schema finds in a laid-out payload the values it was made of. -/
theorem Memory.schemaReading_of_holds {m : Memory} {time : BitVec 64} {flowX flowY dist : BitVec 32}
    {rawX rawY : BitVec 16} {byte24 qual : Byte} {rest : List Byte}
    (h : m.Holds 0 (schemaPayload time flowX flowY dist rawX rawY byte24 qual rest)) :
    m.schemaReading = (true, time, flowX, flowY, dist, rawX, rawY, qual) := by
  simp only [schemaPayload, holds_append, holds_cons, List.length_append, length_leBytes, Nat.zero_add,
    Nat.reduceAdd] at h
  obtain ⟨⟨⟨⟨⟨⟨⟨htime, hflowX⟩, hflowY⟩, hdist⟩, hrawX⟩, hrawY⟩, -, hqual, -⟩, -⟩ := h
  simp only [schemaReading, Prod.mk.injEq, true_and]
  exact ⟨ofNat_readLE_of_holds (n := 8) htime, ofNat_readLE_of_holds (n := 4) hflowX,
    ofNat_readLE_of_holds (n := 4) hflowY, ofNat_readLE_of_holds (n := 4) hdist,
    ofNat_readLE_of_holds (n := 2) hrawX, ofNat_readLE_of_holds (n := 2) hrawY, hqual⟩

theorem length_schemaPayload (time : BitVec 64) (flowX flowY dist : BitVec 32) (rawX rawY : BitVec 16)
    (byte24 qual : Byte) (rest : List Byte) :
    (schemaPayload time flowX flowY dist rawX rawY byte24 qual rest).length = 26 + rest.length := by
  simp only [schemaPayload, List.length_append, length_leBytes, List.length_cons, List.length_nil, Nat.reduceAdd]

/-! ### The reading after a frame -/

/-- The two checksum bytes of a target frame whose payload decodes latch its reading. -/
theorem feed_checksum_latches {s : State} (hterr : s.terr = false) (hp : s.pstate = .gotCka)
    (hm : s.msgId = Config.targetId) (hlong : 26 ≤ s.payloadCount.toNat) {cka ckb : Byte}
    (hcka : cka ≠ Config.sentinel) (hckb : ckb ≠ Config.sentinel) :
    ∃ t rs, feed [cka, ckb] s = .next (t, rs) ∧ t.reading = s.payload.schemaReading := by
  have last := execByte_of_completesFrame (s := (s.setPstate .gotCkb).done) (b := ckb) ⟨hterr, hckb, rfl, hm⟩
  exact ⟨_, _, feed_cons (execByte_of_parse hterr hcka (State.parse_gotCka cka hp)) rfl <|
    feed_cons last rfl <| feed_nil _, State.accept_reading (((s.setPstate .gotCkb).done).setPstate .idle) hlong⟩

/-- A whole target frame of at least 26 payload bytes leaves the reading of a buffer that holds its payload. -/
theorem feed_targetFrame_reading {s : State} (hterr : s.terr = false) (hm : s.payload.wf)
    {seq sys comp cka ckb : Byte} {payload : List Byte} (hlong : 26 ≤ payload.length) (hlen : payload.length ≤ 255)
    (hno : ∀ b ∈ (frameBytes seq sys comp Config.targetId payload cka ckb).tail, b ≠ Config.sentinel) :
    ∃ t rs m, feed (frameBytes seq sys comp Config.targetId payload cka ckb) s = .next (t, rs) ∧
      Memory.Holds m 0 payload ∧ t.reading = m.schemaReading := by
  simp only [frameBytes, List.cons_append, List.nil_append, List.tail_cons, List.forall_mem_cons,
    List.forall_mem_append] at hno
  obtain ⟨hL, hseq, hsys, hcomp, hid, hpayload, hcka, hckb, -⟩ := hno
  have hcount : (BitVec.ofNat 8 payload.length).toNat = payload.length := by
    rw [BitVec.toNat_ofNat, Nat.mod_eq_of_lt (by omega)]
  obtain ⟨u, hfront, hu, hbytes⟩ := feed_headerAndPayload hterr hm (seq := seq) (sys := sys) (comp := comp)
    (msgid := Config.targetId) (by simp [hL, hseq, hsys, hcomp, hid]) hpayload hcount
  obtain ⟨t, rs, hend, hreading⟩ := feed_checksum_latches (s := u) (hu ▸ hterr) (by rw [hu]) (by rw [hu])
    (by rw [hu]; exact hcount.symm ▸ hlong) hcka hckb
  exact ⟨t, _, u.payload, feed_append hfront hend, fun k hk => by rw [Nat.zero_add]; exact hbytes k hk, hreading⟩

/-- Settles O52: the frame leaves the reading of its payload, which is laid out as the schema reads it. -/
theorem encodedReadingRoundTrips : Obligations.EncodedReadingRoundTrips := by
  intro s seq sys comp cka ckb time flowX flowY dist rawX rawY byte24 qual rest hterr hm hlen hno
  have hL := length_schemaPayload time flowX flowY dist rawX rawY byte24 qual rest
  obtain ⟨t, rs, m, hfeed, hheld, hreading⟩ := feed_targetFrame_reading hterr hm (by omega) (by omega) hno
  exact ⟨t, rs, hfeed, hreading.trans (Memory.schemaReading_of_holds hheld)⟩

end Sys2Proof.Machine
end

section
/-! SUPPORT. The field decoder as one if: when it answers, what, and the schema's five uses of it (41_field_decoder.md
R141, R142, R147, R149). -/

namespace Sys2Proof.Machine

theorem tagWidth_le_eight (t : TypeTag) : tagWidth t ≤ 8 := by
  cases t <;> decide

/-- The field decoder in one if (R141). -/
theorem State.fieldDecode_eq (s : State) (t : TypeTag) (lo hi : Nat) :
    s.fieldDecode t lo hi =
      if (hi : Int) - (lo : Int) = (tagWidth t : Int) ∧ hi ≤ s.payloadCount.toNat then
        some (BitVec.ofNat 64 (s.payload.readLE lo (tagWidth t)))
      else none := by
  split
  case isTrue h => exact (s.fieldDecode_eq_some_iff t lo hi _).mpr ⟨by omega, h.2, rfl⟩
  case isFalse h =>
    refine Option.eq_none_iff_forall_ne_some.mpr fun v hv => h ?_
    obtain ⟨hw, hc, -⟩ := (s.fieldDecode_eq_some_iff t lo hi v).mp hv
    exact ⟨by omega, hc⟩

/-- A range of the tag's width that ends at or below PAYLOAD_COUNT decodes, whatever its bytes. -/
theorem State.fieldDecode_isSome {s : State} {t : TypeTag} {lo hi : Nat} (hw : hi = lo + tagWidth t)
    (hc : hi ≤ s.payloadCount.toNat) : (s.fieldDecode t lo hi).isSome := by
  rw [State.fieldDecode_of_width s t lo hi hw, if_pos hc]
  rfl

/-- A range that ends above PAYLOAD_COUNT does not decode. -/
theorem State.fieldDecode_eq_none {s : State} (t : TypeTag) (lo : Nat) {hi : Nat} (h : s.payloadCount.toNat < hi) :
    s.fieldDecode t lo hi = none := by
  rw [State.fieldDecode_eq, if_neg (by omega)]

/-- Settles O36: each of the five ranges has its tag's width, so each decodes exactly when it ends below the count; the
last one ends at 26, the first at 8. -/
theorem schemaDecodeFailsExactlyBelow26 : Obligations.SchemaDecodeFailsExactlyBelow26 := by
  intro s
  refine ⟨?fails, fun h => s.fieldDecode_eq_none _ _ h, fun h => ?below8, fun h => ?from26⟩
  case fails =>
    rw [State.decodeSchema_eq]
    split
    case isTrue hlong => exact iff_of_false nofun (by omega)
    case isFalse hshort => exact iff_of_true rfl (by omega)
  case below8 =>
    refine ⟨?_, ?_, ?_, ?_, ?_⟩ <;> exact State.fieldDecode_eq_none _ _ (by omega)
  case from26 =>
    refine ⟨?_, ?_, ?_, ?_, ?_⟩ <;> exact State.fieldDecode_isSome (by decide) (by omega)

/-! ### The word and its lanes (R142) -/

/-- A decoded word as a number: nothing is lost in 64 bits. -/
theorem State.fieldDecode_toNat {s : State} {t : TypeTag} {lo hi : Nat} {v : Data}
    (h : s.fieldDecode t lo hi = some v) : v.toNat = s.payload.readLE lo (tagWidth t) := by
  obtain ⟨-, -, rfl⟩ := (s.fieldDecode_eq_some_iff t lo hi v).mp h
  have hw := tagWidth_le_eight t
  rw [BitVec.toNat_ofNat, Nat.mod_eq_of_lt]
  exact (s.payload.readLE_lt lo (tagWidth t)).trans_le (Nat.pow_le_pow_right (by decide) (by omega))

/-- Settles O37: the number by the sum of R63; the lanes by the read cut in two (`Memory.readLE_low`,
`Memory.readLE_high`). -/
theorem lanesAreTheHalvesOfTheRange : Obligations.LanesAreTheHalvesOfTheRange := by
  refine ⟨fun s t lo hi v h => ?sum, fun s lo v h => ?f32x2, fun s lo v h => ?i16x2⟩
  case sum => rw [State.fieldDecode_toNat h, payloadReadIsLittleEndian]
  case f32x2 =>
    obtain ⟨-, hc, rfl⟩ := (s.fieldDecode_eq_some_iff .f32x2 lo (lo + 8) v).mp h
    have word (a : Nat) :
        (BitVec.ofNat 32 (s.payload.readLE a 4)).setWidth 64 = BitVec.ofNat 64 (s.payload.readLE a 4) :=
      BitVec.setWidth_ofNat_of_le_of_lt (by decide) (s.payload.readLE_lt a 4)
    have low := s.payload.readLE_low lo 4 4 (by decide)
    have high := s.payload.readLE_high lo 4 4 (by decide)
    refine ⟨(s.fieldDecode_eq_some_iff .f32x1 lo (lo + 4) _).mpr ⟨rfl, by omega, ?_⟩,
      (s.fieldDecode_eq_some_iff .f32x1 (lo + 4) (lo + 8) _).mpr ⟨rfl, by omega, ?_⟩⟩
    · exact (congrArg _ low).trans (word lo)
    · exact (congrArg _ high).trans (word (lo + 4))
  case i16x2 =>
    obtain ⟨-, -, rfl⟩ := (s.fieldDecode_eq_some_iff .i16x2 lo (lo + 4) v).mp h
    have number (a : Nat) : (BitVec.ofNat 16 (s.payload.readLE a 2)).toNat = s.payload.readLE a 2 :=
      (BitVec.toNat_ofNat _ _).trans (Nat.mod_eq_of_lt (s.payload.readLE_lt a 2))
    have low := s.payload.readLE_low lo 2 2 (by decide)
    have high := s.payload.readLE_high lo 2 2 (by decide)
    refine ⟨(congrArg _ low).trans (number lo), (congrArg _ high).trans (number (lo + 2)), ?_⟩
    have extended := s.payload.readLE_setWidth lo 4 (by decide)
    exact (congrArg _ extended.symm).trans (extractLsb'_setWidth_of_ge _ 64 32 (by decide))

end Sys2Proof.Machine
end

section
/-! SUPPORT. DECODE as the host sees it: its command word as a number, the reserved tags, and its answer in one if
(41_field_decoder.md R141, R146; 30_encoding.md R85). -/

namespace Sys2Proof

/-- TAG, HI and LO written as one number (R85). -/
theorem assemble_eq_ofNat (tag : BitVec 3) (hi lo : Byte) :
    assemble 0 tag hi lo = BitVec.ofNat 32 (tag.toNat * 2 ^ 16 + hi.toNat * 2 ^ 8 + lo.toNat) := by
  rw [assemble_eq_iff]
  simp only [opField, rsvField, tagField, hiField, loField, ← BitVec.toNat_inj, BitVec.extractLsb'_toNat,
    Nat.shiftRight_eq_div_pow]
  bv_omega

/-- OP is put into a word that has none. -/
theorem assemble_or_assemble (op : BitVec 4) (tag : BitVec 3) (hi lo : Byte) :
    assemble op 0 0 0 ||| assemble 0 tag hi lo = assemble op tag hi lo := by
  unfold assemble
  rw [BitVec.or_append, BitVec.or_append, BitVec.or_append, BitVec.or_append]
  simp

/-- A DECODE word from its tag's code and its offsets. -/
theorem decodeWord_eq_assemble (tag : BitVec 3) (hi lo : Byte) :
    0x40000000#32 ||| BitVec.ofNat 32 (tag.toNat * 2 ^ 16 + hi.toNat * 2 ^ 8 + lo.toNat) = assemble 0x4 tag hi lo := by
  rw [← assemble_eq_ofNat]
  exact assemble_or_assemble 0x4 tag hi lo

/-- The word of each DECODE. -/
theorem decode_decodeWord (t : TypeTag) (lo hi : Byte) :
    decode (0x40000000#32 ||| BitVec.ofNat 32 (t.code.toNat * 2 ^ 16 + hi.toNat * 2 ^ 8 + lo.toNat)) =
      .ok (.decodeWith t lo hi) := by
  rw [decodeWord_eq_assemble, ← encode_decodeWith, decode_encode]

/-- The words of the codes without a tag are ILLEGAL (R88). -/
theorem decode_decodeWord_of_no_tag {c : BitVec 3} (h : TypeTag.ofCode c = none) (lo hi : Byte) :
    decode (0x40000000#32 ||| BitVec.ofNat 32 (c.toNat * 2 ^ 16 + hi.toNat * 2 ^ 8 + lo.toNat)) =
      .error .reservedTag := by
  rw [decodeWord_eq_assemble, decode_of_decodeOp (opField_assemble _ _ _ _),
    decodeDecode_of_no_tag (rsvField_assemble _ _ _ _) ((tagField_assemble _ _ _ _).symm ▸ h)]

end Sys2Proof

namespace Sys2Proof.Machine

/-- The host's field decode in one if (R141, R146). -/
theorem State.decodeField_eq_ite (s : State) (t : TypeTag) (lo hi : Byte) :
    s.decodeField t lo hi =
      if (hi.toNat : Int) - (lo.toNat : Int) = (tagWidth t : Int) ∧ hi.toNat ≤ s.payloadCount.toNat then
        s.respond .ok (BitVec.ofNat 64 (s.payload.readLE lo.toNat (tagWidth t))) false
      else s.raise .decodeErr := by
  rw [State.decodeField, State.fieldDecode_eq]
  split_ifs <;> rfl

/-- Settles O35: the words by the decoder's fields, the answers by the one if of the field decode. -/
theorem decodeAnswersThePayloadField : Obligations.DecodeAnswersThePayloadField := by
  intro lo hi s
  have answers (t : TypeTag) := (exec_decodeWith t lo hi s).trans (congrArg _ (s.decodeField_eq_ite t lo hi))
  refine ⟨⟨decode_decodeWord .i16x2 lo hi, decode_decodeWord .f32x2 lo hi, decode_decodeWord .f32x1 lo hi,
    decode_decodeWord .u8x1 lo hi, decode_decodeWord .u64x1 lo hi, ?reserved⟩,
    answers .i16x2, answers .f32x2, answers .f32x1, answers .u8x1, answers .u64x1⟩
  case reserved =>
    have illegal {c : BitVec 3} (hc : TypeTag.ofCode c = none) :=
      applyWord_of_decode_error (decode_decodeWord_of_no_tag hc lo hi) s
    simp only [List.forall_mem_cons]
    exact ⟨illegal (c := 5) rfl, illegal (c := 6) rfl, illegal (c := 7) rfl, nofun⟩

end Sys2Proof.Machine
end

section
/-! SUPPORT. The payload bytes the schema leaves out: Accept of two buffers that agree on the bytes it decodes
(41_field_decoder.md R148). -/

namespace Sys2Proof.Machine

/-- Accept decodes the payload bytes 0 to 23 and 25 alone, and leaves the payload buffer (R147, R170-R173). -/
theorem State.accept_swap_of_schema {s : State} {m : Memory}
    (h : ∀ a, a ≠ 24 → a < 26 → m.read a = s.payload.read a) (q : List Input) :
    (s.swap m q).accept = (s.accept.1.swap m q, s.accept.2) := by
  have same (a n : Nat) (hr : a + n ≤ 24 ∨ a = 25 ∧ n = 1) : m.readLE a n = s.payload.readLE a n :=
    Memory.readLE_congr fun k hk => h (a + k) (by omega) (by omega)
  by_cases hc : 26 ≤ s.payloadCount.toNat
  case pos =>
    rw [State.accept_of_long s hc, State.accept_of_long (s.swap m q) hc, State.swap_payload, same 0 8 (by decide),
      same 8 8 (by decide), same 16 4 (by decide), same 20 4 (by decide), same 25 1 (by decide),
      ← State.integrate_swap]
    rfl
  case neg =>
    rw [State.accept_of_short s (by omega), State.accept_of_short (s.swap m q) (not_le.mp hc)]
    rfl

/-- Settles O24: the frame's BYTE runs Accept, which does the same from the other buffer. -/
theorem undecodedPayloadBytesHaveNoEffect : Obligations.UndecodedPayloadBytesHaveNoEffect := by
  intro b s t m hc hm h
  obtain rfl := eq_of_completesFrame hc h
  have keepsPayload : (s.setPstate .idle).accept.1.payload = s.payload := State.accept_payload _
  have keepsInputs : (s.setPstate .idle).accept.1.inputs = s.inputs := State.accept_inputs _
  have other := execByte_of_completesFrame (s := s.swap m s.inputs) (b := b) hc
  have accepted : ((s.swap m s.inputs).setPstate .idle).accept = _ :=
    State.accept_swap_of_schema (s := s.setPstate .idle) hm s.inputs
  rw [accepted] at other
  refine ⟨keepsPayload, other.trans ?_⟩
  rw [← keepsInputs]
  rfl

end Sys2Proof.Machine
end

section
/-! SUPPORT. READ over the whole register map (10_state.md R39, 42_driver_integrator.md R181). -/

namespace Sys2Proof.Machine

/-- The unmapped addresses (R39). -/
theorem regAt_of_unmapped {a : Byte} (h : (9 ≤ a.toNat ∧ a.toNat ≤ 15) ∨ 21 ≤ a.toNat) : regAt a = none := by
  unfold regAt
  split
  case h_15 => rfl
  all_goals omega

/-- The five addresses of the reading registers (R39). -/
theorem regAt_of_reading {a : Byte} (hlo : 16 ≤ a.toNat) (hhi : a.toNat ≤ 20) :
    ∃ r, regAt a = some r ∧ regGated r = true := by
  obtain h | h | h | h | h : a.toNat = 16 ∨ a.toNat = 17 ∨ a.toNat = 18 ∨ a.toNat = 19 ∨ a.toNat = 20 := by omega
  all_goals exact ⟨_, by simp only [regAt, h]; rfl, rfl⟩

/-- READ of an unmapped address (R50, R181). -/
theorem exec_read_of_unmapped {a : Byte} (ha : regAt a = none) (s : State) :
    exec (.read a) s = .next (s.raise .addrErr) := by
  simp only [exec, execRead, ha]

/-- Settles O29: the address is unmapped, or names a reading register, gated by VALID, or another one, always
readable. -/
theorem readAnswersTheAddressedRegister : Obligations.ReadAnswersTheAddressedRegister := by
  refine ⟨fun a => ?word, fun s => ⟨fun a ha => ?unmapped, fun a hlo hhi hv => ?gated, ?_⟩⟩
  case word => rw [← encode_read, decode_encode]
  case unmapped => exact exec_read_of_unmapped (regAt_of_unmapped ha) s
  case gated =>
    obtain ⟨r, hr, hgate⟩ := regAt_of_reading hlo hhi
    exact exec_read_of_gated hr hgate hv
  have readable {a : Byte} {r : Reg} (ha : regAt a = some r) (hr : regGated r = false) :=
    exec_read_of_readable (s := s) ha (.inl hr)
  exact ⟨readable (r := .status) rfl rfl, readable (r := .declLen) rfl rfl, readable (r := .msgId) rfl rfl,
    readable (r := .payloadCount) rfl rfl, readable (r := .sampleCount) rfl rfl, readable (r := .prevTimeUs) rfl rfl,
    readable (r := .accX) rfl rfl, readable (r := .accY) rfl rfl, readable (r := .config) rfl rfl,
    fun hv => ⟨exec_read_of_valid hv rfl rfl, exec_read_of_valid hv rfl rfl, exec_read_of_valid hv rfl rfl,
      exec_read_of_valid hv rfl rfl, exec_read_of_valid hv rfl rfl⟩⟩

end Sys2Proof.Machine
end

section
/-! SUPPORT. What an accepted frame does to the driver's state, element by element, and what no other operation does
(42_driver_integrator.md R170-R178, R180; 10_state.md R53). -/

namespace Sys2Proof.Machine

/-! ### Accept of a payload that decodes, in terms of its bytes -/

section
variable {s : State} (h : 26 ≤ s.payloadCount.toNat)
include h

/-- A payload that decodes clears DERR (R172). -/
theorem State.accept_derr_of_long : s.accept.1.derr = false := by
  simp [State.accept_of_long s h]

/-- The recorded time is the frame's own (R174, R178). -/
theorem State.accept_prevTimeUs_of_long : s.accept.1.prevTimeUs = BitVec.ofNat 64 (s.payload.readLE 0 8) := by
  simp [State.accept_of_long s h]

/-- ACC_X: the frame's own flow in x, over the interval since the previous time (R174-R177). -/
theorem State.accept_accX_of_long :
    s.accept.1.accX =
      if s.prevValid = true ∧
          intervalUs (BitVec.ofNat 64 (s.payload.readLE 0 8)) s.prevTimeUs < (s.gapUs.toNat : Int) then
        accumulated s.accX (BitVec.ofNat 32 (s.payload.readLE 8 4))
          (intervalUs (BitVec.ofNat 64 (s.payload.readLE 0 8)) s.prevTimeUs)
      else s.accX := by
  have low := s.payload.readLE_low 8 4 4 (by decide)
  rw [State.accept_of_long s h, State.integrate_accX, ← low]
  rfl

/-- ACC_Y: the frame's own flow in y, over the interval since the previous time (R174-R177). -/
theorem State.accept_accY_of_long :
    s.accept.1.accY =
      if s.prevValid = true ∧
          intervalUs (BitVec.ofNat 64 (s.payload.readLE 0 8)) s.prevTimeUs < (s.gapUs.toNat : Int) then
        accumulated s.accY (BitVec.ofNat 32 (s.payload.readLE 12 4))
          (intervalUs (BitVec.ofNat 64 (s.payload.readLE 0 8)) s.prevTimeUs)
      else s.accY := by
  have high := s.payload.readLE_high 8 4 4 (by decide)
  rw [State.accept_of_long s h, State.integrate_accY, ← high]
  rfl

end

/-- The interval since the previous time, from the bytes of the frame's own: nothing wraps (R175). -/
theorem intervalUs_readLE (m : Memory) (prev : BitVec 64) :
    intervalUs (BitVec.ofNat 64 (m.readLE 0 8)) prev = (m.readLE 0 8 : Int) - (prev.toNat : Int) := by
  rw [intervalUs, BitVec.toNat_ofNat, Nat.mod_eq_of_lt (m.readLE_lt 0 8)]

/-! ### The accepted frame -/

/-- Settles O23: the frame's BYTE runs Accept, which latches the reading of the schema; VALID is set nowhere else
(`exec_sets_valid`). -/
theorem acceptedFrameLatchesTheReading : Obligations.AcceptedFrameLatchesTheReading := by
  refine ⟨fun b s hc hlong => ?latches, fun i s t h hs ht => exec_sets_valid h hs ht⟩
  have long : 26 ≤ (s.setPstate .idle).payloadCount.toNat := hlong
  have code : (s.setPstate .idle).accept.2 = .ok := (State.accept_code _).trans (if_pos long)
  have reading := State.accept_reading _ long
  simp only [State.reading, Memory.schemaReading, Prod.mk.injEq] at reading
  obtain ⟨hvalid, htime, hflowX, hflowY, hdist, hrawX, hrawY, hqual⟩ := reading
  have prevTime := State.accept_prevTimeUs_of_long long
  exact ⟨_, execByte_of_completesFrame hc, by rw [code]; rfl, hvalid, State.accept_derr_of_long long, htime, hflowX,
    hflowY, hdist, hrawX, hrawY, hqual, (State.accept_prevValid _).trans (if_pos long), prevTime.trans htime.symm⟩

/-- Settles O25: below 26 bytes Accept writes the count and DERR alone. -/
theorem shortFrameKeepsTheReading : Obligations.ShortFrameKeepsTheReading := by
  intro b s hc
  have runs := execByte_of_completesFrame hc
  refine ⟨fun hshort => ?short, fun hlong => ⟨_, runs, State.accept_derr_of_long (s := s.setPstate .idle) hlong⟩⟩
  rw [State.accept_of_short (s.setPstate .idle) hshort] at runs
  exact ⟨_, runs, rfl, saturatingSucc_toNat s.sampleCount⟩

/-- Settles O27: with PREV_VALID = 0 the condition to accumulate fails. -/
theorem firstDecodedFrameOnlyRecordsItsTime : Obligations.FirstDecodedFrameOnlyRecordsItsTime := by
  intro b s hc hlong hprev
  have long : 26 ≤ (s.setPstate .idle).payloadCount.toNat := hlong
  have unmet (c : Prop) : ¬ ((s.setPstate .idle).prevValid = true ∧ c) := by simp [hprev]
  exact ⟨_, execByte_of_completesFrame hc, (State.accept_prevValid _).trans (if_pos long),
    State.accept_prevTimeUs_of_long long, (State.accept_accX_of_long long).trans (if_neg (unmet _)),
    (State.accept_accY_of_long long).trans (if_neg (unmet _))⟩

/-- Settles O28: with PREV_VALID = 1 the condition to accumulate is the gap test on the exact interval. -/
theorem gapTestDecidesTheAccumulation : Obligations.GapTestDecidesTheAccumulation := by
  intro b s dtUs hc hlong hprev hdt
  have long : 26 ≤ (s.setPstate .idle).payloadCount.toNat := hlong
  have accX := State.accept_accX_of_long long
  have accY := State.accept_accY_of_long long
  simp only [State.setPstate_payload, State.setPstate_prevValid, State.setPstate_prevTimeUs, State.setPstate_gapUs,
    State.setPstate_accX, State.setPstate_accY, intervalUs_readLE, ← hdt, hprev, true_and] at accX accY
  exact ⟨_, execByte_of_completesFrame hc, (State.accept_prevValid _).trans (if_pos long),
    State.accept_prevTimeUs_of_long long, fun hgap => ⟨accX.trans (if_pos hgap), accY.trans (if_pos hgap)⟩,
    fun hgap => ⟨accX.trans (if_neg hgap.not_gt), accY.trans (if_neg hgap.not_gt)⟩⟩

/-! ### The other operations -/

/-- No operation but RESET and the BYTE that completes an accepted frame writes the driver's elements (R53, R180). -/
theorem exec_keeps_driver {i : Instr} {s t : State} (h : exec i s = .next t) (hreset : i ≠ .reset)
    (hframe : ¬ ∃ b, i = .byte b ∧ s.completesFrame b) :
    t.reading = s.reading ∧ t.prev = s.prev ∧ t.accX = s.accX ∧ t.accY = s.accY ∧ t.sampleCount = s.sampleCount ∧
      t.derr = s.derr := by
  rcases exec_cases h with ⟨b, rfl⟩ | ⟨-, rfl⟩ | ⟨hr, -⟩ | ⟨-, r, rfl⟩
  case inl =>
    rw [eq_withParser_of_not_completesFrame h fun hc => hframe ⟨b, rfl, hc⟩]
    exact ⟨rfl, rfl, rfl, rfl, rfl, rfl⟩
  case inr.inr.inl => exact absurd hr hreset
  all_goals exact ⟨rfl, rfl, rfl, rfl, rfl, rfl⟩

/-- No operation changes the queue behind it. -/
theorem exec_keeps_inputs {i : Instr} {s t : State} (h : exec i s = .next t) : t.inputs = s.inputs :=
  applyInput_keeps_inputs (i := .command (encode i)) ((applyWord_of_decode_ok (decode_encode i) s).trans h)

/-- BYTE never writes TERR (R53). -/
theorem exec_byte_keeps_terr {b : Byte} {s t : State} (h : exec (.byte b) s = .next t) : t.terr = s.terr := by
  by_cases hc : s.completesFrame b
  case pos =>
    obtain rfl := eq_of_completesFrame hc h
    exact State.accept_terr _
  case neg =>
    rw [eq_withParser_of_not_completesFrame h hc]
    rfl

/-- READ and DECODE write the response alone (R69). -/
theorem eq_setRsp_of_read_or_decode {i : Instr} {s t : State} (h : exec i s = .next t)
    (hi : (∃ a, i = .read a) ∨ ∃ t lo hi, i = Instr.decodeWith t lo hi) : t = s.setRsp t.rsp := by
  obtain ⟨r, hr, -⟩ := exec_read_or_decode s hi
  obtain rfl := Host.Outcome.next.inj (hr.symm.trans h)
  rfl

/-- Settles O26: an accepted frame counts in Accept, whatever it decodes to; every other operation keeps the driver. -/
theorem sampleCountSaturates : Obligations.SampleCountSaturates := by
  intro i s t h hreset
  refine ⟨?accepted, fun hframe => ?other⟩
  case accepted =>
    rintro ⟨b, rfl, hc⟩
    obtain rfl := eq_of_completesFrame hc h
    have count : ((s.setPstate .idle).accept.1.sampleCount).toNat = min (s.sampleCount.toNat + 1) (2 ^ 64 - 1) := by
      rw [State.accept_sampleCount, saturatingSucc_toNat, State.setPstate_sampleCount]
    exact ⟨fun hlt => count.trans (by omega), fun hmax => BitVec.eq_of_toNat_eq (count.trans (by omega))⟩
  case other =>
    obtain ⟨-, -, -, -, hcount, -⟩ := exec_keeps_driver h hreset hframe
    exact hcount

/-- Settles O42, operation by operation: BYTE writes the driver in Accept alone, RXERR writes TERR, READ and DECODE the
response; an ILLEGAL word raises CMD_ERR and writes nothing. -/
theorem onlyAcceptAndResetWriteTheDriver : Obligations.OnlyAcceptAndResetWriteTheDriver := by
  refine ⟨fun i s t h => ⟨exec_keeps_gapUs h, exec_keeps_inputs h, ?writes⟩, fun w s t hw h => ?illegal⟩
  case writes =>
    cases i with
    | byte b =>
      refine ⟨exec_byte_keeps_terr h, fun hc => exec_keeps_driver h nofun ?_⟩
      rintro ⟨c, hb, hcomplete⟩
      exact hc (Instr.byte.inj hb ▸ hcomplete)
    | rxerr =>
      obtain rfl := Host.Outcome.next.inj h
      rfl
    | read a => exact eq_setRsp_of_read_or_decode h (.inl ⟨a, rfl⟩)
    | decodeI16x2 lo hi => exact eq_setRsp_of_read_or_decode h (.inr ⟨.i16x2, lo, hi, rfl⟩)
    | decodeF32x2 lo hi => exact eq_setRsp_of_read_or_decode h (.inr ⟨.f32x2, lo, hi, rfl⟩)
    | decodeF32x1 lo hi => exact eq_setRsp_of_read_or_decode h (.inr ⟨.f32x1, lo, hi, rfl⟩)
    | decodeU8x1 lo hi => exact eq_setRsp_of_read_or_decode h (.inr ⟨.u8x1, lo, hi, rfl⟩)
    | decodeU64x1 lo hi => exact eq_setRsp_of_read_or_decode h (.inr ⟨.u64x1, lo, hi, rfl⟩)
    | reset => trivial
  case illegal =>
    cases hd : decode w with
    | ok i => exact absurd hd (hw i)
    | error e =>
      obtain rfl := Host.Outcome.next.inj ((applyWord_of_decode_error hd s).symm.trans h)
      rfl

end Sys2Proof.Machine
end

section
/-! SUPPORT. The finite numbers of the format and their signs: a finite pattern as sign, significand and exponent, the
sign of a rounded result, and numbers that round to themselves (42_driver_integrator.md R179). -/

namespace Sys2Proof.Machine

/-! ### Signs and finite values -/

/-- The sign of a pattern is its bit 63. -/
theorem getLsbD_63_signed64 (neg : Bool) (mag : Nat) : (signed64 neg mag).getLsbD 63 = neg := by
  rw [signed64, BitVec.getLsbD_append]
  simp

@[simp] theorem getLsbD_63_round64 (neg : Bool) (n d : Nat) (e : Int) : (round64 neg n d e).getLsbD 63 = neg :=
  getLsbD_63_signed64 neg _

/-- The two zeros. -/
theorem zero64_eq (neg : Bool) : zero64 neg = if neg then 0x8000000000000000#64 else 0x0000000000000000#64 := by
  cases neg <;> decide

/-- A number of significand 0 rounds to the zero of its sign. -/
theorem round64_zero (neg : Bool) (d : Nat) (e : Int) : round64 neg 0 d e = zero64 neg := rfl

/-- The sign of a product. -/
theorem signRat_bne (s t : Bool) : signRat (s != t) = signRat s * signRat t := by
  cases s <;> cases t <;> norm_num [signRat]

theorem signRat_ne_zero (s : Bool) : signRat s ≠ 0 := by
  cases s <;> norm_num [signRat]

/-- A sign is its own inverse. -/
theorem signRat_inv (s : Bool) : (signRat s)⁻¹ = signRat s := by
  cases s <;> norm_num [signRat]

/-- Only the finite values are numbers. -/
theorem FloatVal.toRat_eq_some_iff (v : FloatVal) (x : ℚ) :
    v.toRat = some x ↔ ∃ s m e, v = .fin s m e ∧ x = signRat s * (m * 2 ^ e) := by
  cases v with
  | nan => simp [FloatVal.toRat]
  | inf s => simp [FloatVal.toRat]
  | fin s m e =>
    simp only [FloatVal.toRat, Option.some.injEq, FloatVal.fin.injEq, signRat, mul_assoc]
    constructor
    · rintro rfl
      exact ⟨s, m, e, ⟨rfl, rfl, rfl⟩, rfl⟩
    · rintro ⟨_, _, _, ⟨rfl, rfl, rfl⟩, rfl⟩
      rfl

/-- A finite binary64 number, by the sign in its pattern, its significand and its exponent. -/
theorem exists_fin_of_toRat {a : BitVec 64} {x : ℚ} (h : (unpack64 a).toRat = some x) :
    ∃ m e, unpack64 a = .fin (a.getLsbD 63) m e ∧ x = signRat (a.getLsbD 63) * (m * 2 ^ e) := by
  obtain ⟨s, m, e, ha, rfl⟩ := (FloatVal.toRat_eq_some_iff _ _).mp h
  obtain rfl := sign_unpack64 (.inr ⟨m, e, ha⟩)
  exact ⟨m, e, ha, rfl⟩

/-- The significand of a number is 0 exactly where the number is. -/
theorem signRat_mul_eq_zero_iff (s : Bool) (m : Nat) (e : Int) : signRat s * ((m : ℚ) * 2 ^ e) = 0 ↔ m = 0 := by
  have two : (2 : ℚ) ^ e ≠ 0 := by positivity
  simp [signRat_ne_zero, two]

/-! ### Numbers of the format -/

/-- A rounded number that the format holds is exact. -/
theorem RoundedNearestEven.exact {x : ℚ} {r c : BitVec 64} (h : RoundedNearestEven x r) (hx : |x| < overflowBound)
    (hc : (unpack64 c).toRat = some x) : (unpack64 r).toRat = some x := by
  obtain ⟨hge, -⟩ | ⟨-, v, hv, hnear⟩ := h
  · exact absurd hx hge.not_gt
  · have : |v - x| ≤ |x - x| := (hnear c x hc).1
    rw [sub_self, abs_zero, abs_nonpos_iff, sub_eq_zero] at this
    rwa [← this]

/-- A significand that is normal, or any at the subnormals' exponent, stands in a pattern as it is. -/
theorem exists_toRat_eq_of_normal (neg : Bool) {m : Nat} {e : Int} (hm : m ≤ 2 ^ 53) (hlo : -1074 ≤ e) (hhi : e ≤ 970)
    (hnormal : -1074 < e → 2 ^ 52 ≤ m) : ∃ c, (unpack64 c).toRat = some (signRat neg * (m * 2 ^ e)) := by
  have h := toRat_signed64 neg (Q := (e + 1074).toNat) hm (fun hQ => hnormal (by omega)) (by unfold infBits; omega)
  rw [show (((e + 1074).toNat : Nat) : Int) - 1074 = e by omega, mul_assoc] at h
  exact ⟨_, h⟩

/-- The format holds every m · 2^e with m up to 2^53 and an exponent in its range: a significand below 2^52 is doubled
until it is normal or the exponent is the subnormals'. -/
theorem exists_toRat_eq (neg : Bool) {m : Nat} {e : Int} (hm : m ≤ 2 ^ 53) (hlo : -1074 ≤ e) (hhi : e ≤ 970) :
    ∃ c, (unpack64 c).toRat = some (signRat neg * (m * 2 ^ e)) := by
  induction e, hlo using Int.leInduction generalizing m with
  | base => exact exists_toRat_eq_of_normal neg hm le_rfl hhi fun h => absurd h (lt_irrefl _)
  | succ e hlo ih =>
    by_cases hnormal : 2 ^ 52 ≤ m
    case pos => exact exists_toRat_eq_of_normal neg hm (by omega) hhi fun _ => hnormal
    case neg =>
      obtain ⟨c, hc⟩ := ih (m := 2 * m) (by omega) (by omega)
      refine ⟨c, hc.trans (congrArg some ?_)⟩
      rw [zpow_add_one₀ two_ne_zero]
      push_cast
      ring

/-- Such a number rounds to itself. -/
theorem round64_exact (neg : Bool) {m : Nat} {e : Int} (hm : m ≤ 2 ^ 53) (hlo : -1074 ≤ e) (hhi : e ≤ 970) :
    (unpack64 (round64 neg m 1 e)).toRat = some (signRat neg * (m * 2 ^ e)) := by
  obtain ⟨c, hc⟩ := exists_toRat_eq neg hm hlo hhi
  have rounded := round64_roundedNearestEven neg m one_pos e
  rw [Nat.cast_one, div_one] at rounded
  refine rounded.exact ?_ hc
  have sign : |signRat neg| = 1 := by cases neg <;> norm_num [signRat]
  have hm' : (m : ℚ) ≤ 2 ^ 53 := by exact_mod_cast hm
  rw [abs_mul, sign, one_mul, abs_of_nonneg (by positivity), overflowBound]
  calc (m : ℚ) * 2 ^ e
    _ ≤ 2 ^ 53 * 2 ^ (970 : ℤ) :=
      mul_le_mul hm' (zpow_le_zpow_right₀ one_le_two hhi) (by positivity) (by positivity)
    _ = 2 ^ 53 * 2 ^ 970 := rfl
    _ < (2 ^ 54 - 1) * 2 ^ 970 := mul_lt_mul_of_pos_right (by norm_num) (by positivity)

/-! ### Widening -/

/-- A finite binary32 number: bit 31 is its sign, the significand has 24 bits, the exponent stands between
the subnormals' and the largest. -/
theorem unpack32_eq_fin {x : BitVec 32} {neg : Bool} {m : Nat} {e : Int} (h : unpack32 x = .fin neg m e) :
    x.getLsbD 31 = neg ∧ m < 2 ^ 24 ∧ -149 ≤ e ∧ e ≤ 104 := by
  have fraction := (x.extractLsb' 0 23).isLt
  have exponent := (x.extractLsb' 23 8).isLt
  simp only [unpack32] at h
  split_ifs at h
  all_goals
    obtain ⟨rfl, rfl, rfl⟩ := FloatVal.fin.inj h
    exact ⟨rfl, by omega, by omega, by omega⟩

/-- Settles O54: a binary32 number is one of binary64, and rounds to itself. -/
theorem wideningToBinary64IsExact : Obligations.WideningToBinary64IsExact := by
  intro x
  refine ⟨fun h => ?nan, fun neg h => ?inf, fun v hv => ?fin⟩
  case nan => simp only [f32ToF64, h, canonicalNaN]
  case inf => simp only [f32ToF64, h, unpack64_inf64]
  case fin =>
    obtain ⟨neg, m, e, h, rfl⟩ := (FloatVal.toRat_eq_some_iff _ _).mp hv
    obtain ⟨hsign, hm, hlo, hhi⟩ := unpack32_eq_fin h
    simp only [f32ToF64, h]
    exact ⟨round64_exact neg (by omega) (by omega) (by omega), (getLsbD_63_round64 ..).trans hsign.symm⟩

/-! ### Integers -/

/-- An integer as a sign before its magnitude. -/
theorem signRat_mul_natAbs (n : Int) : signRat (decide (n < 0)) * n.natAbs = (n : ℚ) := by
  rw [Nat.cast_natAbs, signRat]
  split_ifs with h <;> simp only [decide_eq_true_eq] at h
  · rw [abs_of_neg h]
    push_cast
    ring
  · rw [abs_of_nonneg (not_lt.mp h), one_mul]

/-- The nearest binary64 number to an integer at exponent g. -/
theorem round64_int (n : Int) (g : Int) :
    RoundedNearestEven (n * 2 ^ g) (round64 (decide (n < 0)) n.natAbs 1 g) := by
  have h := round64_roundedNearestEven (decide (n < 0)) n.natAbs one_pos g
  rwa [Nat.cast_one, div_one, ← mul_assoc, signRat_mul_natAbs] at h

/-- Settles O55: an integer is its own significand at exponent 0. -/
theorem integerToBinary64IsRounded : Obligations.IntegerToBinary64IsRounded := by
  refine ⟨fun n => ?rounded, fun n hn => ?exact⟩
  case rounded => simpa [intToF64] using round64_int n 0
  case exact =>
    rw [Int.abs_eq_natAbs] at hn
    have h := round64_exact (decide (n < 0)) (m := n.natAbs) (e := 0) (by omega) (by decide) (by decide)
    rwa [zpow_zero, mul_one, signRat_mul_natAbs] at h

end Sys2Proof.Machine
end

section
/-! SUPPORT. The three operations of the accumulator, one equation per kind of operands; the exact result of each on
numbers, rounded once; and their results with infinities and by zero (42_driver_integrator.md R179, log entry 10). -/

namespace Sys2Proof.Machine

/-! ### One equation per kind of operands -/

section
variable {a b : BitVec 64} {s t : Bool} {m n : Nat} {e f : Int}

theorem f64Mul_of_fin (ha : unpack64 a = .fin s m e) (hb : unpack64 b = .fin t n f) :
    f64Mul a b = round64 (s != t) (m * n) 1 (e + f) := by
  simp only [f64Mul, ha, hb]

theorem f64Mul_of_inf (ha : unpack64 a = .inf s) (hb : unpack64 b = .inf t) : f64Mul a b = inf64 (s != t) := by
  simp only [f64Mul, ha, hb]

theorem f64Mul_of_inf_fin (ha : unpack64 a = .inf s) (hb : unpack64 b = .fin t m e) :
    f64Mul a b = if m = 0 then canonicalNaN else inf64 (s != t) := by
  simp only [f64Mul, ha, hb]

theorem f64Mul_of_fin_inf (ha : unpack64 a = .fin s m e) (hb : unpack64 b = .inf t) :
    f64Mul a b = if m = 0 then canonicalNaN else inf64 (s != t) := by
  simp only [f64Mul, ha, hb]

theorem f64Div_of_fin (ha : unpack64 a = .fin s m e) (hb : unpack64 b = .fin t n f) :
    f64Div a b =
      if n = 0 then (if m = 0 then canonicalNaN else inf64 (s != t)) else round64 (s != t) m n (e - f) := by
  simp only [f64Div, ha, hb]

theorem f64Div_of_inf (ha : unpack64 a = .inf s) (hb : unpack64 b = .inf t) : f64Div a b = canonicalNaN := by
  simp only [f64Div, ha, hb]

theorem f64Div_of_inf_fin (ha : unpack64 a = .inf s) (hb : unpack64 b = .fin t m e) :
    f64Div a b = inf64 (s != t) := by
  simp only [f64Div, ha, hb]

theorem f64Div_of_fin_inf (ha : unpack64 a = .fin s m e) (hb : unpack64 b = .inf t) :
    f64Div a b = zero64 (s != t) := by
  simp only [f64Div, ha, hb]

theorem f64Add_of_fin (ha : unpack64 a = .fin s m e) (hb : unpack64 b = .fin t n f) :
    f64Add a b = addFinite s m e t n f := by
  simp only [f64Add, ha, hb]

theorem f64Add_of_inf (ha : unpack64 a = .inf s) (hb : unpack64 b = .inf t) :
    f64Add a b = if s = t then inf64 s else canonicalNaN := by
  simp only [f64Add, ha, hb]

theorem f64Add_of_inf_fin (ha : unpack64 a = .inf s) (hb : unpack64 b = .fin t m e) : f64Add a b = inf64 s := by
  simp only [f64Add, ha, hb]

theorem f64Add_of_fin_inf (ha : unpack64 a = .fin s m e) (hb : unpack64 b = .inf t) : f64Add a b = inf64 t := by
  simp only [f64Add, ha, hb]

end

/-! ### Multiplication -/

/-- Settles O56: signs, significands and exponents of a product each combine on their own. -/
theorem multiplicationIsCorrectlyRounded : Obligations.MultiplicationIsCorrectlyRounded := by
  refine ⟨fun a b x y hx hy => ?numbers, fun a b s t ha hb => ?infinities, fun a b s y ha hy hne => ?infByNumber⟩
  case numbers =>
    obtain ⟨m, e, ha, rfl⟩ := exists_fin_of_toRat hx
    obtain ⟨n, f, hb, rfl⟩ := exists_fin_of_toRat hy
    rw [f64Mul_of_fin ha hb, getLsbD_63_round64]
    have rounded := round64_roundedNearestEven (a.getLsbD 63 != b.getLsbD 63) (m * n) one_pos (e + f)
    refine ⟨?_, rfl⟩
    convert rounded using 1
    rw [signRat_bne, zpow_add₀ two_ne_zero]
    push_cast
    ring
  case infinities => exact (congrArg unpack64 (f64Mul_of_inf ha hb)).trans (unpack64_inf64 _)
  case infByNumber =>
    obtain ⟨m, e, hb, rfl⟩ := exists_fin_of_toRat hy
    have hm := mt (signRat_mul_eq_zero_iff _ m e).mpr hne
    rw [f64Mul_of_inf_fin ha hb, f64Mul_of_fin_inf hb ha, if_neg hm, if_neg hm, unpack64_inf64, unpack64_inf64]
    exact ⟨rfl, congrArg _ (Bool.xor_comm _ s)⟩

/-! ### Division -/

/-- Settles O57: signs, significands and exponents of a quotient each combine on their own. -/
theorem divisionIsCorrectlyRounded : Obligations.DivisionIsCorrectlyRounded := by
  refine ⟨fun a b x y hx hy hne => ?numbers, fun a b s y ha hy => ?infByNumber, fun a b x t hx hb => ?numberByInf,
    fun a b x hx hne hy => ?byZero⟩
  case numbers =>
    obtain ⟨m, e, ha, rfl⟩ := exists_fin_of_toRat hx
    obtain ⟨n, f, hb, rfl⟩ := exists_fin_of_toRat hy
    have hn := mt (signRat_mul_eq_zero_iff _ n f).mpr hne
    rw [f64Div_of_fin ha hb, if_neg hn, getLsbD_63_round64]
    have rounded := round64_roundedNearestEven (a.getLsbD 63 != b.getLsbD 63) m (Nat.pos_of_ne_zero hn) (e - f)
    refine ⟨?_, rfl⟩
    convert rounded using 1
    rw [signRat_bne, zpow_sub₀ two_ne_zero, div_eq_mul_inv, mul_inv, signRat_inv]
    ring
  case infByNumber =>
    obtain ⟨n, f, hb, -⟩ := exists_fin_of_toRat hy
    exact (congrArg unpack64 (f64Div_of_inf_fin ha hb)).trans (unpack64_inf64 _)
  case numberByInf =>
    obtain ⟨m, e, ha, -⟩ := exists_fin_of_toRat hx
    exact (f64Div_of_fin_inf ha hb).trans (zero64_eq _)
  case byZero =>
    obtain ⟨m, e, ha, rfl⟩ := exists_fin_of_toRat hx
    obtain ⟨n, f, hb, hzero⟩ := exists_fin_of_toRat hy
    have hm := mt (signRat_mul_eq_zero_iff _ m e).mpr hne
    have hn := (signRat_mul_eq_zero_iff _ n f).mp hzero.symm
    rw [f64Div_of_fin ha hb, if_pos hn, if_neg hm]
    exact unpack64_inf64 _

/-! ### Addition -/

/-- A significand aligned to a lower exponent stands for the same number. -/
theorem alignedSig_mul_zpow (s : Bool) (m : Nat) {e g : Int} (h : g ≤ e) :
    (alignedSig s m (e - g).toNat : ℚ) * 2 ^ g = signRat s * (m * 2 ^ e) := by
  have power : (2 : ℚ) ^ (e - g).toNat * 2 ^ g = 2 ^ e := by
    rw [← zpow_natCast, ← zpow_add₀ two_ne_zero, Int.toNat_of_nonneg (sub_nonneg.mpr h), sub_add_cancel]
  rw [← power]
  cases s <;> simp [alignedSig, signRat] <;> ring

/-- The sum of two finite numbers: an integer at their lower exponent, rounded once, or a zero. -/
theorem addFinite_eq (s : Bool) (m : Nat) (e : Int) (t : Bool) (n : Nat) (f : Int) :
    ∃ k : Int, signRat s * (m * 2 ^ e) + signRat t * (n * 2 ^ f) = k * 2 ^ min e f ∧
      addFinite s m e t n f =
        if k = 0 then zero64 (s && t) else round64 (decide (k < 0)) k.natAbs 1 (min e f) := by
  refine ⟨_, ?_, rfl⟩
  rw [← alignedSig_mul_zpow s m (min_le_left e f), ← alignedSig_mul_zpow t n (min_le_right e f), ← add_mul]
  push_cast
  rfl

/-- Either zero is 0 rounded. -/
theorem zero64_rounded (neg : Bool) : RoundedNearestEven 0 (zero64 neg) := by
  simpa [round64_zero] using round64_roundedNearestEven neg 0 one_pos 0

/-- Settles O58: the sum of two numbers is an integer at their lower exponent, 0 exactly where the sum is. -/
theorem additionIsCorrectlyRounded : Obligations.AdditionIsCorrectlyRounded := by
  refine ⟨fun a b x y hx hy => ?numbers, fun a b s y ha hy => ?infAndNumber, fun a b s ha hb => ?infinities⟩
  case numbers =>
    obtain ⟨m, e, ha, rfl⟩ := exists_fin_of_toRat hx
    obtain ⟨n, f, hb, rfl⟩ := exists_fin_of_toRat hy
    obtain ⟨k, hsum, hadd⟩ := addFinite_eq (a.getLsbD 63) m e (b.getLsbD 63) n f
    rw [f64Add_of_fin ha hb, hsum, hadd]
    by_cases hk : k = 0
    case pos =>
      rw [if_pos hk, hk, Int.cast_zero, zero_mul]
      exact ⟨zero64_rounded _, fun _ => zero64_eq _⟩
    case neg =>
      rw [if_neg hk]
      refine ⟨round64_int k _, fun hzero => absurd hzero ?_⟩
      exact mul_ne_zero (Int.cast_ne_zero.mpr hk) (zpow_ne_zero _ two_ne_zero)
  case infAndNumber =>
    obtain ⟨n, f, hb, -⟩ := exists_fin_of_toRat hy
    rw [f64Add_of_inf_fin ha hb, f64Add_of_fin_inf hb ha]
    exact ⟨unpack64_inf64 s, unpack64_inf64 s⟩
  case infinities => rw [f64Add_of_inf ha hb, if_pos rfl, unpack64_inf64]

end Sys2Proof.Machine
end

section
/-! SUPPORT. NaN: where the primitives give it, in which pattern, and what it does to an accumulator
(42_driver_integrator.md R179). -/

namespace Sys2Proof.Machine

/-! ### One pattern -/

/-- What a primitive answers: the canonical NaN, an infinity, or a number rounded once. -/
inductive PrimitiveResult : BitVec 64 → Prop
  | nan : PrimitiveResult canonicalNaN
  | inf (neg : Bool) : PrimitiveResult (inf64 neg)
  | rounded (neg : Bool) (n : Nat) {d : Nat} (hd : 0 < d) (e : Int) : PrimitiveResult (round64 neg n d e)

/-- A rounded number is not NaN. -/
theorem RoundedNearestEven.ne_nan {x : ℚ} {r : BitVec 64} (h : RoundedNearestEven x r) : unpack64 r ≠ .nan := by
  intro hnan
  obtain ⟨-, hinf⟩ | ⟨-, v, hv, -⟩ := h
  · exact nomatch hnan.symm.trans hinf
  · exact nomatch (congrArg FloatVal.toRat hnan).symm.trans hv

/-- The one NaN among the results is the canonical one. -/
theorem PrimitiveResult.canonical {r : BitVec 64} (h : PrimitiveResult r) (hnan : unpack64 r = .nan) :
    r = canonicalNaN := by
  cases h with
  | nan => rfl
  | inf neg => exact nomatch (unpack64_inf64 neg).symm.trans hnan
  | rounded neg n hd e => exact absurd hnan (round64_roundedNearestEven neg n hd e).ne_nan

theorem PrimitiveResult.zero (neg : Bool) : PrimitiveResult (zero64 neg) := .rounded neg 0 one_pos 0

theorem f32ToF64_result (x : BitVec 32) : PrimitiveResult (f32ToF64 x) := by
  unfold f32ToF64
  split
  case h_1 => exact .nan
  case h_2 => exact .inf _
  case h_3 => exact .rounded _ _ one_pos _

theorem f64Mul_result (a b : BitVec 64) : PrimitiveResult (f64Mul a b) := by
  unfold f64Mul
  split
  case h_1 | h_2 => exact .nan
  case h_3 => exact .inf _
  case h_4 | h_5 => split; exacts [.nan, .inf _]
  case h_6 => exact .rounded _ _ one_pos _

theorem f64Div_result (a b : BitVec 64) : PrimitiveResult (f64Div a b) := by
  unfold f64Div
  split
  case h_1 | h_2 | h_3 => exact .nan
  case h_4 => exact .inf _
  case h_5 => exact .zero _
  case h_6 =>
    split_ifs with hn hm
    · exact .nan
    · exact .inf _
    · exact .rounded _ _ (Nat.pos_of_ne_zero hn) _

theorem f64Add_result (a b : BitVec 64) : PrimitiveResult (f64Add a b) := by
  unfold f64Add
  split
  case h_1 | h_2 => exact .nan
  case h_3 => split; exacts [.inf _, .nan]
  case h_4 | h_5 => exact .inf _
  case h_6 s m e t n f _ _ =>
    obtain ⟨k, -, hadd⟩ := addFinite_eq s m e t n f
    rw [hadd]
    split
    exacts [.zero _, .rounded _ _ one_pos _]

/-! ### Where it arises -/

/-- A NaN operand gives NaN. -/
theorem f64_of_nan {a b : BitVec 64} (h : unpack64 a = .nan ∨ unpack64 b = .nan) :
    f64Mul a b = canonicalNaN ∧ f64Div a b = canonicalNaN ∧ f64Add a b = canonicalNaN := by
  unfold f64Mul f64Div f64Add
  rcases h with h | h
  · simp only [h, and_self]
  · cases unpack64 a <;> simp only [h, and_self]

/-- The significand of a zero. -/
theorem exists_fin_of_toRat_zero {a : BitVec 64} (h : (unpack64 a).toRat = some 0) :
    ∃ e, unpack64 a = .fin (a.getLsbD 63) 0 e := by
  obtain ⟨m, e, ha, hzero⟩ := exists_fin_of_toRat h
  obtain rfl := (signRat_mul_eq_zero_iff _ m e).mp hzero.symm
  exact ⟨e, ha⟩

/-- Settles O59: each primitive answers with one of the three kinds of results, and the equations of the operations name
the NaN ones. -/
theorem naNResultsAreCanonical : Obligations.NaNResultsAreCanonical := by
  have isNaN {r : BitVec 64} (h : r = canonicalNaN) : unpack64 r = .nan := h ▸ unpack64_canonicalNaN
  refine ⟨fun x => (f32ToF64_result x).canonical, fun n => (round64_int n 0).ne_nan,
    fun a b => (f64Mul_result a b).canonical, fun a b => (f64Div_result a b).canonical,
    fun a b => (f64Add_result a b).canonical, fun a b h => ?operand, fun a b neg ha hb => ?infTimesZero,
    fun a b neg ha hb => ?infMinusInf, fun a b ha hb => ?zeroByZero, fun a b neg neg' ha hb => ?infByInf⟩
  case operand =>
    obtain ⟨hmul, hdiv, hadd⟩ := f64_of_nan h
    exact ⟨isNaN hmul, isNaN hdiv, isNaN hadd⟩
  case infTimesZero =>
    obtain ⟨e, hb⟩ := exists_fin_of_toRat_zero hb
    exact ⟨isNaN (f64Mul_of_inf_fin ha hb), isNaN (f64Mul_of_fin_inf hb ha)⟩
  case infMinusInf => exact isNaN ((f64Add_of_inf ha hb).trans (if_neg (Bool.not_ne_self neg).symm))
  case zeroByZero =>
    obtain ⟨e, ha⟩ := exists_fin_of_toRat_zero ha
    obtain ⟨f, hb⟩ := exists_fin_of_toRat_zero hb
    exact isNaN (f64Div_of_fin ha hb)
  case infByInf => exact isNaN (f64Div_of_inf ha hb)

/-! ### The accumulators -/

/-- An accumulator's next value is the old one, or the old one plus some sample (R174-R177). -/
def AddsSample (acc acc' : BitVec 64) : Prop := acc' = acc ∨ ∃ sample, acc' = f64Add acc sample

/-- Accept adds at most one sample to each accumulator. -/
theorem State.accept_addsSample (s : State) :
    AddsSample s.accX s.accept.1.accX ∧ AddsSample s.accY s.accept.1.accY := by
  by_cases hc : 26 ≤ s.payloadCount.toNat
  case pos =>
    rw [State.accept_accX_of_long hc, State.accept_accY_of_long hc]
    split_ifs
    · exact ⟨.inr ⟨_, rfl⟩, .inr ⟨_, rfl⟩⟩
    · exact ⟨.inl rfl, .inl rfl⟩
  case neg =>
    rw [State.accept_of_short s (not_le.mp hc)]
    exact ⟨.inl rfl, .inl rfl⟩

/-- Every operation but RESET adds at most one sample to each accumulator (R180). -/
theorem exec_addsSample {i : Instr} {s t : State} (h : exec i s = .next t) (hreset : i ≠ .reset) :
    AddsSample s.accX t.accX ∧ AddsSample s.accY t.accY := by
  by_cases hframe : ∃ b, i = .byte b ∧ s.completesFrame b
  case pos =>
    obtain ⟨b, rfl, hc⟩ := hframe
    obtain rfl := eq_of_completesFrame hc h
    exact (s.setPstate .idle).accept_addsSample
  case neg =>
    obtain ⟨-, -, hx, hy, -⟩ := exec_keeps_driver h hreset hframe
    exact ⟨.inl hx, .inl hy⟩

/-- NaN plus a sample is NaN. -/
theorem AddsSample.nan {acc acc' : BitVec 64} (h : AddsSample acc acc') (hnan : unpack64 acc = .nan) :
    unpack64 acc' = .nan := by
  obtain rfl | ⟨sample, rfl⟩ := h
  · exact hnan
  · rw [(f64_of_nan (.inl hnan)).2.2, unpack64_canonicalNaN]

/-- Settles O60: a step without a reset in front leaves each accumulator, or adds a sample to it. -/
theorem naNAccumulatorStaysNaN : Obligations.NaNAccumulatorStaysNaN := by
  intro s t hstep hno
  rcases step_cases_of_no_reset hstep hno with ⟨is, r, rfl⟩ | ⟨i, rest, -, hi, hx⟩
  case inl => exact ⟨id, id⟩
  case inr =>
    obtain ⟨hX, hY⟩ := exec_addsSample hx hi
    exact ⟨hX.nan, hY.nan⟩

end Sys2Proof.Machine
end

section
/-! SUPPORT. A run command by command; RESET, element by element; and RXERR, with what READ and DECODE answer once TERR is
set (43_host_control.md R210, R211). -/

namespace Sys2Proof.Machine

/-- The first command's response, then those of the rest (20_memory.md R70). -/
theorem runInputs_command {i : Instr} {is : List Input} {s u t : State} {r : Response} {rs : List Response}
    (hx : exec i s = .next u) (hr : u.rsp = some r) (h : runInputs is u = .next (t, rs)) :
    runInputs (.command (encode i) :: is) s = .next (t, r :: rs) := by
  have hi : applyInput (.command (encode i)) s = .next u := (applyWord_of_decode_ok (decode_encode i) s).trans hx
  simp only [runInputs, hi, h, hr, Option.toList, List.singleton_append]

/-! ### RESET (R211) -/

/-- RESET answers in every state. -/
theorem exec_reset (s : State) : exec .reset s = .next s.toReset.done := rfl

/-- STATUS reads 0 after RESET: PSTATE is IDLE, whose code is 0, and no flag is set (10_state.md R40). -/
theorem State.toReset_done_statusWord (s : State) : s.toReset.done.statusWord = 0 := by
  change State.reset.statusWord = 0
  decide

/-- READ of STATUS is never gated. -/
theorem exec_read_status (s : State) : exec (.read 0x00) s = .next (s.respond .ok s.statusWord false) :=
  exec_read_of_readable (r := .status) rfl (.inl rfl)

/-- Settles O12: the run is RESET and then READ of STATUS, which is 0; the elements are those of `State.toReset`. -/
theorem resetOperationResetsEveryElement : Obligations.ResetOperationResetsEveryElement := by
  refine ⟨decode_encode .reset, fun s => ?statusAfter, fun s => ⟨_, exec_reset s, ?elements⟩⟩
  case statusAfter =>
    have status : (s.toReset.done.respond .ok s.toReset.done.statusWord false).rsp = some ⟨.ok, 0, false⟩ := by
      rw [State.toReset_done_statusWord]
      rfl
    exact ⟨_, runInputs_command (exec_reset s) rfl (runInputs_command (exec_read_status _) status rfl)⟩
  case elements => simp [State.done, State.respond, State.reset]

/-! ### RXERR (R210) -/

/-- RXERR answers in every state. -/
theorem exec_rxerr (s : State) : exec .rxerr s = .next ((s.setTerr true).raise .transportErr) := rfl

/-- STATUS is the register at address 0 alone (10_state.md R39). -/
theorem regAt_eq_status_iff (a : Byte) : regAt a = some .status ↔ a = 0x00 := by
  revert a
  decide

/-- STATUS alone of the registers shows TERR (10_state.md R40-R49). -/
theorem State.setTerr_regValue {r : Reg} (hr : r ≠ .status) (s : State) (b : Bool) :
    (s.setTerr b).regValue r = s.regValue r := by
  cases r with
  | status => exact absurd rfl hr
  | _ => rfl

/-- A field decode does not look at TERR (41_field_decoder.md R146). -/
theorem State.setTerr_decodeField (s : State) (b : Bool) (t : TypeTag) (lo hi : Byte) :
    (s.setTerr b).decodeField t lo hi = (s.decodeField t lo hi).setTerr b := by
  rw [State.decodeField_eq_ite, State.decodeField_eq_ite, State.setTerr_payloadCount]
  split <;> rfl

/-- READ answers with the same code whatever TERR is, and with the same data but for STATUS. -/
theorem exec_read_setTerr (a : Byte) (s : State) (b : Bool) :
    ∃ r r' : Response, r'.code = r.code ∧ (a ≠ 0x00 → r' = r) ∧
      exec (.read a) s = .next (s.setRsp (some r)) ∧
      exec (.read a) (s.setTerr b) = .next ((s.setTerr b).setRsp (some r')) := by
  cases ha : regAt a with
  | none => exact ⟨_, _, rfl, fun _ => rfl, exec_read_of_unmapped ha s, exec_read_of_unmapped ha (s.setTerr b)⟩
  | some reg =>
    by_cases hread : regGated reg = false ∨ s.valid = true
    case pos =>
      refine ⟨⟨.ok, s.regValue reg, false⟩, ⟨.ok, (s.setTerr b).regValue reg, false⟩, rfl, fun hne => ?_,
        exec_read_of_readable ha hread, exec_read_of_readable ha hread⟩
      have hreg : reg ≠ .status := fun h => hne ((regAt_eq_status_iff a).mp (h ▸ ha))
      rw [State.setTerr_regValue hreg]
    case neg =>
      obtain ⟨hgate, hv⟩ : regGated reg = true ∧ s.valid = false := by simpa using hread
      exact ⟨_, _, rfl, fun _ => rfl, exec_read_of_gated ha hgate hv, exec_read_of_gated ha hgate hv⟩

/-- DECODE gives the same response whatever TERR is. -/
theorem exec_decodeWith_setTerr (t : TypeTag) (lo hi : Byte) (s : State) (b : Bool) :
    ∃ r : Response, exec (.decodeWith t lo hi) s = .next (s.setRsp (some r)) ∧
      exec (.decodeWith t lo hi) (s.setTerr b) = .next ((s.setTerr b).setRsp (some r)) := by
  obtain ⟨r, hr⟩ := s.decodeField_eq t lo hi
  refine ⟨r, ?_, ?_⟩
  · rw [exec_decodeWith, hr]
  · rw [exec_decodeWith, State.setTerr_decodeField, hr]
    rfl

/-- Settles O38: a BYTE after RXERR takes the refusing branch, RESET clears TERR with the frame, and READ and DECODE
answer as if TERR had its old value, STATUS aside. -/
theorem rxerrSetsTerr : Obligations.RxerrSetsTerr := by
  refine ⟨decode_encode .rxerr, exec_rxerr, fun b s => ?refused, fun s => ⟨_, exec_reset _, rfl, rfl, rfl⟩,
    fun i s hi => ?asBefore⟩
  case refused =>
    exact runInputs_command (exec_rxerr s) rfl (runInputs_command (i := .byte b) (execByte_of_terr rfl) rfl rfl)
  case asBefore =>
    rcases hi with ⟨a, rfl⟩ | ⟨tag, lo, hi, rfl⟩
    · obtain ⟨r, r', hcode, hsame, hx, hx'⟩ := exec_read_setTerr a s true
      exact ⟨r, r', hcode, fun hne => hsame fun h => hne (congrArg _ h), hx, hx'⟩
    · obtain ⟨r, hx, hx'⟩ := exec_decodeWith_setTerr tag lo hi s true
      exact ⟨r, r, rfl, fun _ => rfl, hx, hx'⟩

end Sys2Proof.Machine
end

section
/-! SUPPORT. The one response code of each operation, and of a command word, in the order of 60_exceptions.md R236. -/

namespace Sys2Proof.Machine

/-- The response standing has code `c` (30_encoding.md R90). -/
def State.Answers (t : State) (c : RspCode) : Prop := ∃ r : Response, t.rsp = some r ∧ r.code = c

/-- A state that ends an operation with a response answers that response's code. -/
theorem State.respond_answers (s : State) (c : RspCode) (d : Data) (e : Bool) : (s.respond c d e).Answers c :=
  ⟨_, rfl, rfl⟩

/-- BYTE answers OK where it is neither refused nor completes an accepted frame. -/
theorem execByte_answers_ok {b : Byte} {s t : State} (hterr : s.terr = false) (hc : ¬ s.completesFrame b)
    (h : execByte b s = .next t) : t.Answers .ok := by
  rcases execByte_cases h with ⟨hrefused, -⟩ | ⟨-, -, rfl⟩ | ⟨-, hb, branch⟩
  · exact absurd hrefused (by simp [hterr])
  · exact State.respond_answers ..
  · rcases branch with ⟨-, rfl⟩ | ⟨-, rfl⟩ | ⟨-, rfl⟩ | ⟨-, rfl⟩ | ⟨-, rfl⟩ | ⟨-, rfl⟩ | ⟨-, -, rfl⟩ | ⟨-, rfl⟩ |
      ⟨-, -, rfl⟩ | ⟨hp, hm, -⟩
    case inr.inr.inr.inr.inr.inr.inr.inr.inr => exact absurd ⟨hterr, hb, hp, hm⟩ hc
    all_goals exact State.respond_answers ..

/-- BYTE's code: the refusal before anything else, then the failed decode of an accepted frame (R236, item 4). -/
theorem exec_byte_answers {b : Byte} {s t : State} (h : exec (.byte b) s = .next t) :
    t.Answers (if s.terr = true then .transportErr
      else if b ≠ 0xFE#8 ∧ s.pstate = .gotCkb ∧ s.msgId = 100#8 ∧ s.payloadCount.toNat < 26 then .decodeErr
      else .ok) := by
  cases hterr : s.terr with
  | true =>
    obtain rfl := Host.Outcome.next.inj ((execByte_of_terr hterr).symm.trans h)
    exact State.respond_answers ..
  | false =>
    rw [if_neg Bool.false_ne_true]
    by_cases hc : s.completesFrame b
    case pos =>
      obtain rfl := eq_of_completesFrame hc h
      obtain ⟨-, hb, hp, hm⟩ := hc
      have code : (s.setPstate .idle).accept.2 = if 26 ≤ s.payloadCount.toNat then .ok else .decodeErr :=
        State.accept_code _
      simp only [code, hb, hp, hm, ne_eq, not_false_eq_true, true_and, ← not_lt, ite_not]
      exact State.respond_answers ..
    case neg =>
      rw [if_neg fun ⟨hb, hp, hm, _⟩ => hc ⟨hterr, hb, hp, hm⟩]
      exact execByte_answers_ok hterr hc h

/-- The mapped addresses below the reading registers (10_state.md R39). -/
theorem regAt_of_ungated {a : Byte} (h : a.toNat ≤ 8) : ∃ r, regAt a = some r ∧ regGated r = false := by
  obtain h | h | h | h | h | h | h | h | h : a.toNat = 0 ∨ a.toNat = 1 ∨ a.toNat = 2 ∨ a.toNat = 3 ∨ a.toNat = 4 ∨
    a.toNat = 5 ∨ a.toNat = 6 ∨ a.toNat = 7 ∨ a.toNat = 8 := by omega
  all_goals exact ⟨_, by simp only [regAt, h]; rfl, rfl⟩

/-- READ's code: the unmapped address before the gate (R236, item 5). -/
theorem exec_read_answers {a : Byte} {s t : State} (h : exec (.read a) s = .next t) :
    t.Answers (if (9 ≤ a.toNat ∧ a.toNat ≤ 15) ∨ 21 ≤ a.toNat then .addrErr
      else if 16 ≤ a.toNat ∧ s.valid = false then .accessErr
      else .ok) := by
  have answers {c : RspCode} {d : Data} (hx : exec (.read a) s = .next (s.respond c d false)) : t.Answers c := by
    obtain rfl := Host.Outcome.next.inj (hx.symm.trans h)
    exact State.respond_answers ..
  split_ifs with hunmapped hgated
  · exact answers (exec_read_of_unmapped (regAt_of_unmapped hunmapped) s)
  · obtain ⟨r, hr, hgate⟩ := regAt_of_reading hgated.1 (by omega)
    exact answers (exec_read_of_gated hr hgate hgated.2)
  · by_cases hlow : a.toNat ≤ 8
    case pos =>
      obtain ⟨r, hr, hopen⟩ := regAt_of_ungated hlow
      exact answers (exec_read_of_readable hr (.inl hopen))
    case neg =>
      obtain ⟨r, hr, -⟩ := regAt_of_reading (a := a) (by omega) (by omega)
      have hv : s.valid = true := by
        rw [← Bool.not_eq_false]
        exact fun hv => hgated ⟨by omega, hv⟩
      exact answers (exec_read_of_readable hr (.inr hv))

/-- DECODE's code, for every tag (R236, item 6). -/
theorem exec_decodeWith_answers {tag : TypeTag} {lo hi : Byte} {s t : State}
    (h : exec (.decodeWith tag lo hi) s = .next t) :
    t.Answers (if hi.toNat = lo.toNat + tagWidth tag ∧ hi.toNat ≤ s.payloadCount.toNat then .ok else .decodeErr) := by
  rw [exec_decodeWith, State.decodeField_eq_ite] at h
  obtain rfl := Host.Outcome.next.inj h
  have width : (hi.toNat : Int) - (lo.toNat : Int) = (tagWidth tag : Int) ↔ hi.toNat = lo.toNat + tagWidth tag := by
    omega
  simp only [width]
  split_ifs <;> exact State.respond_answers ..

/-- Settles O41: an ILLEGAL word raises CMD_ERR; an operation answers by its own lemma; and BYTE looks at the sentinel
before the parser state. -/
theorem responseCodePriority : Obligations.ResponseCodePriority := by
  intro w s t h
  refine ⟨?code, fun hw hterr => ?sentinel⟩
  case sentinel =>
    rw [applyWord_of_decode_ok hw] at h
    obtain rfl := Host.Outcome.next.inj ((execByte_of_sentinel hterr).symm.trans h)
    rfl
  case code =>
    cases hw : decode w with
    | error e =>
      obtain rfl := Host.Outcome.next.inj ((applyWord_of_decode_error hw s).symm.trans h)
      exact State.respond_answers ..
    | ok i =>
      rw [applyWord_of_decode_ok hw] at h
      cases i with
      | byte b => exact exec_byte_answers h
      | rxerr =>
        obtain rfl := Host.Outcome.next.inj ((exec_rxerr s).symm.trans h)
        exact State.respond_answers ..
      | read a => exact exec_read_answers h
      | decodeI16x2 lo hi => exact exec_decodeWith_answers (tag := .i16x2) h
      | decodeF32x2 lo hi => exact exec_decodeWith_answers (tag := .f32x2) h
      | decodeF32x1 lo hi => exact exec_decodeWith_answers (tag := .f32x1) h
      | decodeU8x1 lo hi => exact exec_decodeWith_answers (tag := .u8x1) h
      | decodeU64x1 lo hi => exact exec_decodeWith_answers (tag := .u64x1) h
      | reset =>
        obtain rfl := Host.Outcome.next.inj ((exec_reset s).symm.trans h)
        exact State.respond_answers ..

end Sys2Proof.Machine
end

section
/-! SUPPORT. Progress: under the invariants no payload byte lacks an index, so every operation, word and step answers a
next state (60_exceptions.md R242, 70_reset_and_hazards.md R271). -/

namespace Sys2Proof.Machine

/-- A payload still being received has room for its next byte (10_state.md R52(f)). -/
theorem Inv.not_lacksIndex {s : State} (h : Inv s) (b : Byte) : ¬ s.LacksIndex b :=
  fun ⟨_, _, hp, hfull⟩ => (lt_payloadCap_iff _).mp (h.countFits.2 hp) hfull

/-- Under the invariants every operation answers a next state. -/
theorem Inv.exec_next {s : State} (h : Inv s) (i : Instr) : ∃ t, exec i s = .next t := by
  rcases exec_next_or_stops i s with ⟨hnext, -⟩ | ⟨-, b, -, hlacks⟩
  · exact hnext
  · exact absurd hlacks (h.not_lacksIndex b)

/-- Under the invariants every command word answers a next state, ILLEGAL or not. -/
theorem Inv.applyWord_next {s : State} (h : Inv s) (w : Word) : ∃ t, applyWord w s = .next t := by
  cases hw : decode w with
  | error e => exact ⟨_, applyWord_of_decode_error hw s⟩
  | ok i =>
    rw [applyWord_of_decode_ok hw]
    exact h.exec_next i

/-- Settles O46, by what stands in front of the queue: nothing, the pin, or a word, which sees the invariants without
itself in the queue. -/
theorem blockNeverSticks : Obligations.BlockNeverSticks := by
  intro s h
  match hin : s.inputs with
  | [] => exact ⟨_, step_of_nil hin⟩
  | .resetPin :: rest => exact ⟨_, step_of_cons hin⟩
  | .command w :: rest =>
    rw [step_of_command hin]
    exact (h.setInputs rest).applyWord_next w

end Sys2Proof.Machine
end

section
/-! SUPPORT. The inputs of one clock edge without a pulse of the reset pin (60_exceptions.md R237): the command port's
RESET, the transport's report and byte, the command port's other word. -/

namespace Sys2Proof.Machine

/-- What the transport presents at one clock edge: the failure report before the byte (R237, log entry 12). -/
def transportInputs (rx : Option Byte) (rxErr : Bool) : List Input :=
  (if rxErr then [.command (encode .rxerr)] else []) ++ byteInputs rx.toList

/-- The word on the command port comes before the transport's inputs if it is RESET, and after them if not (R237). -/
theorem Pins.inputs_of_no_pin (rx : Option Byte) (rxErr : Bool) (cmd : Option Word) :
    ({ rst := false, rx := rx, rxErr := rxErr, cmd := cmd } : Pins).inputs =
      ((cmd.filter isResetWord).map Input.command).toList ++ transportInputs rx rxErr ++
        ((cmd.filter fun w => !isResetWord w).map Input.command).toList := by
  simp only [Pins.inputs, transportInputs, byteInputs, Option.toList_map, List.append_assoc, List.nil_append,
    Bool.false_eq_true, if_false]

/-- The one word of RESET is the one that decodes to it (30_encoding.md R91). -/
theorem isResetWord_iff (w : Word) : isResetWord w = true ↔ decode w = .ok .reset := by
  rw [decode_eq_ok_iff, isResetWord, beq_iff_eq, eq_comm]

/-- A word of another operation is not RESET's. -/
theorem isResetWord_of_decode_ok {w : Word} {i : Instr} (hw : decode w = .ok i) (hi : i ≠ .reset) :
    isResetWord w = false := by
  rw [← Bool.not_eq_true, isResetWord_iff, hw]
  exact fun h => hi (Except.ok.inj h)

/-- One clock edge with RESET on the command port runs RESET first. -/
theorem clockEdge_of_resetWord {w : Word} (hw : isResetWord w = true) (rx : Option Byte) (rxErr : Bool) (s : State) :
    clockEdge { rst := false, rx := rx, rxErr := rxErr, cmd := some w } s =
      runInputs (.command w :: transportInputs rx rxErr) s := by
  simp [clockEdge, Pins.inputs_of_no_pin, Option.filter, hw]

/-- One clock edge with another word on the command port runs that word last. -/
theorem clockEdge_of_otherWord {w : Word} (hw : isResetWord w = false) (rx : Option Byte) (rxErr : Bool) (s : State) :
    clockEdge { rst := false, rx := rx, rxErr := rxErr, cmd := some w } s =
      runInputs (transportInputs rx rxErr ++ [.command w]) s := by
  simp [clockEdge, Pins.inputs_of_no_pin, Option.filter, hw]

/-- One clock edge with nothing on the command port runs the transport's inputs. -/
theorem clockEdge_of_no_command (rx : Option Byte) (rxErr : Bool) (s : State) :
    clockEdge { rst := false, rx := rx, rxErr := rxErr, cmd := none } s = runInputs (transportInputs rx rxErr) s := by
  simp [clockEdge, Pins.inputs_of_no_pin]

/-- Settles O49: the word on the command port is RESET's, another operation's, or none stands there. -/
theorem sameStepOrder : Obligations.SameStepOrder := by
  intro rx rxErr w s
  have other {i : Instr} (hw : decode w = .ok i) (hi : i ≠ .reset) :=
    clockEdge_of_otherWord (isResetWord_of_decode_ok hw hi) rx rxErr s
  refine ⟨fun hw => ?reset, ?hostWord, clockEdge_of_no_command rx rxErr s⟩
  case reset => exact clockEdge_of_resetWord ((isResetWord_iff w).mpr hw) rx rxErr s
  case hostWord =>
    rintro (⟨a, hw⟩ | ⟨tag, lo, hi, hw⟩)
    · exact other hw nofun
    · exact other hw (by cases tag <;> nofun)

end Sys2Proof.Machine
end

section
/-! SUPPORT. Runs without a reset input: each input keeps the reading and SAMPLE_COUNT, or is the one that accepts a frame and
counts it (42_driver_integrator.md R171, 70_reset_and_hazards.md R265). -/

namespace Sys2Proof.Machine

/-! ### One input -/

/-- From `s` to `t` no frame was accepted: the reading and the count stand, and the response is no event. -/
structure State.NoAccept (s t : State) : Prop where
  reading : t.reading = s.reading
  count : t.sampleCount = s.sampleCount
  noEvent : ∀ r ∈ t.rsp, r.ev = false

/-- An operation other than RESET accepts no frame, or counts the one it accepts. -/
theorem exec_noAccept_or_counts {i : Instr} {s t : State} (h : exec i s = .next t) (hi : i ≠ .reset) :
    s.NoAccept t ∨ t.sampleCount = saturatingSucc s.sampleCount := by
  by_cases hframe : ∃ b, i = .byte b ∧ s.completesFrame b
  case pos =>
    obtain ⟨b, rfl, hc⟩ := hframe
    obtain rfl := eq_of_completesFrame hc h
    exact .inr (State.accept_sampleCount _)
  case neg =>
    obtain ⟨hreading, -, -, -, hcount, -⟩ := exec_keeps_driver h hi hframe
    obtain ⟨r, hr, hev, -⟩ := everyOperationGivesOneResponse.1 i s t h
    refine .inl ⟨hreading, hcount, fun q hq => ?_⟩
    obtain rfl := Option.some.inj (hr.symm.trans hq)
    exact Bool.eq_false_iff.mpr (mt hev.mp hframe)

/-- An input that is no reset accepts no frame, or counts the one it accepts. -/
theorem applyInput_noAccept_or_counts {i : Input} {s t : State} (h : applyInput i s = .next t)
    (hno : i.isReset = false) : s.NoAccept t ∨ t.sampleCount = saturatingSucc s.sampleCount := by
  cases i with
  | resetPin => nomatch hno
  | command w =>
    cases hw : decode w with
    | ok op =>
      refine exec_noAccept_or_counts ((applyWord_of_decode_ok hw s).symm.trans h) ?_
      rintro rfl
      obtain rfl := encode_of_decode_ok hw
      exact absurd hno (by decide)
    | error e =>
      obtain rfl := Host.Outcome.next.inj ((applyWord_of_decode_error hw s).symm.trans h)
      exact .inl ⟨rfl, rfl, by rintro _ ⟨⟩; rfl⟩

/-- The count never falls in an input that is no reset. -/
theorem applyInput_count_le {i : Input} {s t : State} (h : applyInput i s = .next t) (hno : i.isReset = false) :
    s.sampleCount.toNat ≤ t.sampleCount.toNat := by
  rcases applyInput_noAccept_or_counts h hno with hn | hc
  · rw [hn.count]
  · rw [hc]
    exact le_saturatingSucc _

/-- A count that is not saturated and stands still has counted no frame. -/
theorem applyInput_noAccept_of_count_le {i : Input} {s t : State} (h : applyInput i s = .next t)
    (hno : i.isReset = false) (hle : t.sampleCount.toNat ≤ s.sampleCount.toNat)
    (hlt : s.sampleCount.toNat < 2 ^ 64 - 1) : s.NoAccept t := by
  refine (applyInput_noAccept_or_counts h hno).resolve_right fun hc => ?_
  rw [hc, saturatingSucc_toNat] at hle
  omega

/-! ### Runs -/

/-- A run that answers next answers next in its first input and in the rest. -/
theorem runInputs_cons_next {i : Input} {is : List Input} {s t : State} {rs : List Response}
    (h : runInputs (i :: is) s = .next (t, rs)) :
    ∃ u qs, applyInput i s = .next u ∧ runInputs is u = .next (t, qs) ∧ rs = u.rsp.toList ++ qs := by
  simp only [runInputs] at h
  cases hu : applyInput i s with
  | fault r => simp [hu] at h
  | refused r => simp [hu] at h
  | next u =>
    simp only [hu] at h
    cases ht : runInputs is u with
    | fault r => simp [ht] at h
    | refused r => simp [ht] at h
    | next p =>
      simp only [ht] at h
      cases h
      exact ⟨u, p.2, rfl, ht, rfl⟩

/-- A run that answers next answers next in both parts it is cut into (20_memory.md R70). -/
theorem runInputs_append_next {is js : List Input} {s t : State} {rs : List Response}
    (h : runInputs (is ++ js) s = .next (t, rs)) :
    ∃ u ps qs, runInputs is s = .next (u, ps) ∧ runInputs js u = .next (t, qs) := by
  rw [runInputs_append] at h
  cases hu : runInputs is s with
  | fault r => simp [hu] at h
  | refused r => simp [hu] at h
  | next p =>
    simp only [hu] at h
    cases ht : runInputs js p.1 with
    | fault r => simp [ht] at h
    | refused r => simp [ht] at h
    | next q =>
      simp only [ht] at h
      cases h
      exact ⟨p.1, p.2, q.2, rfl, ht⟩

/-- The count never falls in a run without a reset. -/
theorem runInputs_count_le {is : List Input} {s t : State} {rs : List Response}
    (hno : ∀ i ∈ is, i.isReset = false) (h : runInputs is s = .next (t, rs)) :
    s.sampleCount.toNat ≤ t.sampleCount.toNat := by
  induction is generalizing s rs with
  | nil =>
    cases h
    exact le_rfl
  | cons i is ih =>
    obtain ⟨hi, his⟩ := List.forall_mem_cons.mp hno
    obtain ⟨u, qs, hu, ht, -⟩ := runInputs_cons_next h
    exact (applyInput_count_le hu hi).trans (ih his ht)

/-- A run without a reset over which an unsaturated count stands still gives no event and keeps the reading: the count
after its first input lies between two equal counts. -/
theorem runInputs_noAccept {is : List Input} {s t : State} {rs : List Response} (hno : ∀ i ∈ is, i.isReset = false)
    (h : runInputs is s = .next (t, rs)) (heq : t.sampleCount = s.sampleCount)
    (hlt : s.sampleCount.toNat < 2 ^ 64 - 1) : (∀ r ∈ rs, r.ev = false) ∧ t.reading = s.reading := by
  induction is generalizing s rs with
  | nil =>
    cases h
    exact ⟨nofun, rfl⟩
  | cons i is ih =>
    obtain ⟨hi, his⟩ := List.forall_mem_cons.mp hno
    obtain ⟨u, qs, hu, ht, rfl⟩ := runInputs_cons_next h
    have first : s.NoAccept u := applyInput_noAccept_of_count_le hu hi (heq ▸ runInputs_count_le his ht) hlt
    obtain ⟨hqs, hread⟩ := ih his ht (heq.trans first.count.symm) (first.count.symm ▸ hlt)
    refine ⟨fun r hr => ?_, hread.trans first.reading⟩
    rcases List.mem_append.mp hr with hr | hr
    · exact first.noEvent r (Option.mem_toList.mp hr)
    · exact hqs r hr

/-- Settles O53: no input of the run accepts a frame, and over its first part the count stands still too, since it falls
neither before nor after the cut. -/
theorem equalCountsMeanOneFrame : Obligations.EqualCountsMeanOneFrame := by
  intro is s t rs hno h heq hlt
  refine ⟨(runInputs_noAccept hno h heq hlt).1, ?cut⟩
  case cut =>
    rintro pre suf rfl
    obtain ⟨hpre, hsuf⟩ := List.forall_mem_append.mp hno
    obtain ⟨u, ps, qs, hu, ht⟩ := runInputs_append_next h
    have count : u.sampleCount = s.sampleCount :=
      BitVec.eq_of_toNat_eq (le_antisymm (heq ▸ runInputs_count_le hsuf ht) (runInputs_count_le hpre hu))
    exact ⟨u, ps, hu, (runInputs_noAccept hpre hu count hlt).2⟩

end Sys2Proof.Machine
end

section
/-! SUPPORT. The reset state, the pin beside RESET, and bytes that have no effect: those in IDLE after a reset, and those
after RXERR (70_reset_and_hazards.md R260-R262, R269). -/

namespace Sys2Proof.Machine

/-- Bytes that each write the response alone, and always the same one, leave the state as it was, however many. -/
theorem feed_of_inert {bs : List Byte} {s : State} {r : Response}
    (hb : ∀ b ∈ bs, ∀ q, execByte b (s.setRsp q) = .next (s.setRsp (some r))) (q : Option Response) :
    ∃ q', feed bs (s.setRsp q) = .next (s.setRsp q', List.replicate bs.length r) := by
  induction bs generalizing q with
  | nil => exact ⟨q, feed_nil _⟩
  | cons b bs ih =>
    obtain ⟨hfirst, hrest⟩ := List.forall_mem_cons.mp hb
    obtain ⟨q', hfeed⟩ := ih hrest (some r)
    exact ⟨q', feed_cons (hfirst q) rfl hfeed⟩

/-- Settles O14: RESET leaves the parser in IDLE with TERR clear, where a byte other than the sentinel is ignored. -/
theorem bytesAfterResetAreIgnoredUpToASentinel : Obligations.BytesAfterResetAreIgnoredUpToASentinel := by
  intro bs s hbs
  have ignored : ∀ b ∈ bs, ∀ q, execByte b (s.toReset.setRsp q) = .next (s.toReset.setRsp (some okRsp)) :=
    fun b hb q => execByte_of_parse rfl (hbs b hb) (State.parse_idle b rfl)
  obtain ⟨q, hfeed⟩ := feed_of_inert ignored (some okRsp)
  exact ⟨_, runInputs_command (exec_reset s) rfl hfeed, rfl⟩

/-- Settles O39: RXERR sets TERR, and a byte refused for it leaves it set. -/
theorem bytesAfterALinkFailureAreLost : Obligations.BytesAfterALinkFailureAreLost := by
  intro bs s
  have refused : ∀ b ∈ bs, ∀ q,
      execByte b ((s.setTerr true).setRsp q) = .next ((s.setTerr true).setRsp (some ⟨.transportErr, 0, false⟩)) :=
    fun _ _ _ => execByte_of_terr rfl
  obtain ⟨q, hfeed⟩ := feed_of_inert refused (some ⟨.transportErr, 0, false⟩)
  exact ⟨_, runInputs_command (exec_rxerr s) rfl hfeed, rfl⟩

/-- Settles O11: each element is the one `State.reset` gives it. -/
theorem resetStateHasTheStatedValues : Obligations.ResetStateHasTheStatedValues := by
  simp [Obligations.ResetStateHasTheStatedValues, State.reset]

/-- Settles O13: RESET and the pin both leave `State.toReset`, RESET with a response beside it. -/
theorem resetPinHasTheEffectOfReset : Obligations.ResetPinHasTheEffectOfReset :=
  fun s => ⟨s.toReset.done, s.toReset, exec_reset s, rfl, rfl, rfl⟩

end Sys2Proof.Machine
end
